-- ==== Sys2Proof/Word.lean ====
section
/-! DEFINITION. The word types of the block (00_scope.md R6, R8): 32-bit operands and registers, the 64-bit product and
accumulator, and the bytes of the platform's byte lanes. -/

namespace Sys2Proof

/-- A register or operand: `W = 32` bits, unsigned (R6, R8). -/
abbrev Word := BitVec 32

/-- The accumulator, the running base and the product: `PW = 64` bits (R6). -/
abbrev DWord := BitVec 64

/-- One byte lane of a register when the platform maps the window into a byte-addressed space (20_memory.md R64). -/
abbrev Byte := BitVec 8

end Sys2Proof
end

