-- ==== Sys2Proof/Machine/RegMap.lean ====
section
/-! DEFINITION. The register map: the names, word indexes and byte offsets of the register window (10_state.md R22). -/

namespace Sys2Proof.Machine

/-- The twelve named registers of 10_state.md R22. The four reserved words have no name. -/
inductive RegName where
  | id
  | ctrl
  | status
  | cmd
  | opa
  | opb
  | opm
  | result
  | dreg
  | rreg
  | info
  | witness
deriving DecidableEq, Repr

/-- The word index `off[5:2]` of a register (10_state.md R21, R22). -/
def RegName.index : RegName → BitVec 4
  | .id => 0x0#4
  | .ctrl => 0x1#4
  | .status => 0x2#4
  | .cmd => 0x3#4
  | .opa => 0x4#4
  | .opb => 0x5#4
  | .opm => 0x6#4
  | .result => 0x7#4
  | .dreg => 0x8#4
  | .rreg => 0x9#4
  | .info => 0xA#4
  | .witness => 0xB#4

/-- The register at a word index; none at the reserved words 0xC to 0xF (10_state.md R22, 20_memory.md R67). -/
def RegName.ofIndex (i : BitVec 4) : Option RegName :=
  match i.toNat with
  | 0 => some .id
  | 1 => some .ctrl
  | 2 => some .status
  | 3 => some .cmd
  | 4 => some .opa
  | 5 => some .opb
  | 6 => some .opm
  | 7 => some .result
  | 8 => some .dreg
  | 9 => some .rreg
  | 10 => some .info
  | 11 => some .witness
  | _ => none

/-- The byte offset of a register from `BASE_ADDR` (10_state.md R22): four times its word index. -/
def RegName.offset (r : RegName) : Nat := 4 * r.index.toNat

end Sys2Proof.Machine
end

