-- ==== Sys2Proof/Machine/ScriptSyntax.lean ====
section
/-! DEFINITION. The host-script notation of 30_encoding.md R86 and R88 as data: register references, WR and RD lines, and the
pseudo-instructions. Its checks are in WellFormed.lean, its encoding and expansions in Machine/Script.lean. -/

namespace Sys2Proof.Machine

/-- `<reg>`: a register name of R22, or a literal byte offset `@0xNN` (30_encoding.md R86). -/
inductive RegRef where
  | named (r : RegName)
  | literal (off : Nat)
deriving DecidableEq, Repr

/-- One line of a host script (30_encoding.md R86). -/
inductive ScriptLine where
  /-- `WR <reg>, <value>`. -/
  | wr (reg : RegRef) (value : Nat)
  /-- `RD <reg> -> <name>`. -/
  | rd (reg : RegRef) (name : String)
deriving DecidableEq, Repr

/-- A script item: a line, or a pseudo-instruction of 30_encoding.md R88. `waitIrq` is the wait of 95_test_vectors.md
program 2, which has no bus transaction (log 17). -/
inductive ScriptItem where
  | line (l : ScriptLine)
  | modpow (a e m : Nat)
  | isprime (n : Nat)
  | wait (reg : RegRef) (mask val : Nat)
  | waitDone
  | ack
  | enIrq
  | waitIrq
deriving DecidableEq, Repr

end Sys2Proof.Machine
end

