-- ==== Sys2Proof/Syntax.lean ====
section
/-! DEFINITION. The instructions of the block: the two commands of spec/opcode_table.json. A command word carries no operand
(30_encoding.md R80, R83), so no constructor has a field. -/

namespace Sys2Proof

/-- A command the host may write to `CMD` (30_encoding.md R82). -/
inductive Instr where
  /-- `base^exponent mod modulus` on `OPA`, `OPB`, `OPM` (41_modpow.md R120). -/
  | modpow
  /-- Is `n = OPA` prime (42_isprime.md R160). -/
  | isprime
deriving DecidableEq, Repr

end Sys2Proof
end

