-- ==== Sys2Proof/WellFormed.lean ====
section
/-! DEFINITION. What is well formed. A command has no operand, so every command is well formed (30_encoding.md R83). A script
line is well formed when its literals lie in the ranges of 30_encoding.md R86 and 00_scope.md R10. -/

namespace Sys2Proof

/-- Every constructor is one exact 32-bit word with no operand field (30_encoding.md R82, R83): nothing is left to check. -/
def Instr.wellFormed : Instr → Bool
  | .modpow => true
  | .isprime => true

namespace Machine

/-- A literal offset is a multiple of 4 in `[0x00, 0x3C]` (00_scope.md R10). -/
def RegRef.wellFormed : RegRef → Bool
  | .named _ => true
  | .literal off => decide (off % 4 = 0) && decide (off ≤ 0x3C)

/-- A literal value lies in `[0, 2^32 - 1]` (30_encoding.md R86). -/
def valueWellFormed (v : Nat) : Bool := decide (v < 2 ^ 32)

/-- A script line is well formed when its register reference and its value are (30_encoding.md R86). -/
def ScriptLine.wellFormed : ScriptLine → Bool
  | .wr reg v => reg.wellFormed && valueWellFormed v
  | .rd reg _ => reg.wellFormed

/-- A script item is well formed when every literal of its expansion is (30_encoding.md R86, R88). -/
def ScriptItem.wellFormed : ScriptItem → Bool
  | .line l => l.wellFormed
  | .modpow a e m => valueWellFormed a && valueWellFormed e && valueWellFormed m
  | .isprime n => valueWellFormed n
  | .wait reg mask val => reg.wellFormed && valueWellFormed mask && valueWellFormed val
  | .waitDone => true
  | .ack => true
  | .enIrq => true
  | .waitIrq => true

end Machine

end Sys2Proof
end

