-- ==== Sys2Proof/Decode.lean ====
section
/-! DEFINITION. The command word (30_encoding.md R80 to R85): its fields, the total decoder that rejects by name, the byte
lanes of a word (20_memory.md R64), and the encoder. -/

namespace Sys2Proof

/-- Why a 32-bit word is no command, in the order the classes are tested (30_encoding.md R84). -/
inductive CmdError where
  /-- `v[31:4] != 0` (40_command_dispatch.md R103). -/
  | rsvdBits
  /-- `v[31:4] == 0` and `v[3:0]` is neither 1 nor 2 (R106, R107). -/
  | badOpcode
deriving DecidableEq, Repr

/-- Why a list of bytes is no command: it is not one whole word (20_memory.md R65), or the word is rejected. -/
inductive BytesError where
  | notOneWord
  | word (e : CmdError)
deriving DecidableEq, Repr

/-- The field `OP`, bits 3:0 of the command word (30_encoding.md R80). -/
def opField (v : Word) : BitVec 4 := v.extractLsb' 0 4

/-- The field `RSV`, bits 31:4 of the command word (30_encoding.md R80). -/
def rsvField (v : Word) : BitVec 28 := v.extractLsb' 4 28

/-- The command a word stands for: the reserved bits first, then the opcode (30_encoding.md R81, R84). -/
def decodeWord (v : Word) : Except CmdError Instr :=
  if rsvField v ≠ 0#28 then .error .rsvdBits
  else
    match (opField v).toNat with
    | 1 => .ok .modpow
    | 2 => .ok .isprime
    | _ => .error .badOpcode

/-- Byte lane `k` of a word: bits `8k+7:8k` (little-endian, 20_memory.md R64). -/
def byteLane (v : Word) (k : Nat) : Byte := v.extractLsb' (8 * k) 8

/-- The four byte lanes of a word in address order (20_memory.md R64). -/
def wordBytes (v : Word) : List Byte := [byteLane v 0, byteLane v 1, byteLane v 2, byteLane v 3]

/-- The word that four bytes in address order make; none for any other number of bytes, since every access moves exactly
32 bits (20_memory.md R64, R65). -/
def wordOfBytes : List Byte → Option Word
  | [b0, b1, b2, b3] => some (b3 ++ b2 ++ b1 ++ b0)
  | _ => none

/-- The decoder on bytes in address order. -/
def decodeBytes (bs : List Byte) : Except BytesError Instr :=
  match wordOfBytes bs with
  | none => .error .notOneWord
  | some v =>
    match decodeWord v with
    | .ok i => .ok i
    | .error e => .error (.word e)

/-- The encoder: the exact word of each command (30_encoding.md R82; the `match` values of opcode_table.json). -/
def encode : Instr → Word
  | .modpow => 0x00000001#32
  | .isprime => 0x00000002#32

/-- The low `n` bytes of a number, lowest byte first. -/
def bytesOfNat : Nat → Nat → List Byte
  | 0, _ => []
  | n + 1, w => BitVec.ofNat 8 w :: bytesOfNat n (w / 256)

/-- What the decoder reads from an instruction whose `nbits` bits are `w`, every bit above them 0: the bytes are laid out as
the platform's byte lanes lay them (20_memory.md R64), at least one whole word of them. -/
def decodeTableWord (nbits w : Nat) : Option Instr :=
  (decodeBytes (bytesOfNat (max 4 ((nbits + 7) / 8)) (w % 2 ^ nbits))).toOption

end Sys2Proof
end

