-- ==== Sys2Proof/Config.lean ====
section
/-! DEFINITION. The constants of the block (00_scope.md R6) and the one parameter an integration fixes (R7): where the
register window lies. -/

namespace Sys2Proof

/-- `ID_VALUE`, the contents of the ID register (00_scope.md R6, 10_state.md R24). -/
def Config.idValue : Word := 0x4D520001#32

/-- `BASES`: the witness bases in their fixed order (00_scope.md R6, 10_state.md R45). A constant, not state. -/
def Config.bases : List Word := [2#32, 7#32, 61#32]

/-- The size of the register window in bytes: 16 words (00_scope.md R6, 20_memory.md R60). -/
def Config.windowBytes : Nat := 64

/-- Which 64-byte frame of the platform's address space holds the window. `BASE_ADDR` is an open parameter (R7), so this
number has no body and no proof can know it (log 6). -/
opaque Config.windowFrame : Nat

/-- `BASE_ADDR`, 64-byte aligned by construction (00_scope.md R7, 20_memory.md R63). -/
def Config.baseAddr : Nat := Config.windowBytes * Config.windowFrame

end Sys2Proof
end

