-- ==== Sys2Proof/Machine/State.lean ====
section
/-! DEFINITION. The state of the block (10_state.md): the host-visible registers, the engine's registers, and the environment
that drives the port; the state after reset (R50); and the ways a step can stop. -/

namespace Sys2Proof.Machine

/-- The values `STATUS.ERRCODE` takes (60_exceptions.md R190). Codes 5 to 15 are never written (10_state.md R31, log 15). -/
inductive ErrCode where
  | none
  | badOpcode
  | rsvdBits
  | modZero
  | nLt2
deriving DecidableEq, Repr

/-- The values `INFO.EXIT` takes (10_state.md R39). Codes 6 and 7 are never written (log 15). -/
inductive Exit where
  | none
  | fastSmall
  | fastEven
  | witness
  | allPassed
  | early
deriving DecidableEq, Repr

/-- The nine values of `ENG_STATE` (10_state.md R41, log 22). -/
inductive EngState where
  | idle
  | mpStart
  | mpLoop
  | ptStart
  | ptDecomp
  | ptBase
  | ptPowret
  | ptSq
  | ptSqret
deriving DecidableEq, Repr

/-- The values of `MP_RET`: where a call of the exponentiator returns (10_state.md R42, log 22). -/
inductive RetTo where
  | host
  | ptPowret
  | ptSqret
deriving DecidableEq, Repr

/-- The host-visible registers that hold state (10_state.md R22 to R40). `ID` is a constant and `CMD` holds no value. -/
structure Regs where
  /-- `CTRL.IE` (R25). -/
  ctrlIE : Bool
  /-- `STATUS.BUSY` (R27). -/
  busy : Bool
  /-- `STATUS.DONE` (R28). -/
  done : Bool
  /-- `STATUS.ERR` (R29). -/
  err : Bool
  /-- `STATUS.OVR` (R30). -/
  ovr : Bool
  /-- `STATUS.ERRCODE` (R31). -/
  errcode : ErrCode
  /-- `OPA` (R33). -/
  opa : Word
  /-- `OPB` (R34). -/
  opb : Word
  /-- `OPM` (R35). -/
  opm : Word
  /-- `RESULT` (R36). -/
  result : Word
  /-- `DREG` (R37). -/
  dreg : Word
  /-- `RREG[4:0]` (R38). -/
  rreg : BitVec 5
  /-- `INFO.EXIT` (R39). -/
  infoExit : Exit
  /-- `INFO.BT` (R39). -/
  infoBt : BitVec 2
  /-- `WITNESS` (R40). -/
  witness : Word
deriving DecidableEq, Repr

/-- The engine's registers, which the host cannot read (10_state.md R41 to R44, R46). -/
structure Engine where
  /-- `ENG_STATE` (R41). -/
  state : EngState
  /-- `MP_ACC` (R42). -/
  mpAcc : DWord
  /-- `MP_B` (R42). -/
  mpB : DWord
  /-- `MP_E` (R42). -/
  mpE : Word
  /-- `MP_M` (R42). -/
  mpM : Word
  /-- `MP_RES` (R42). -/
  mpRes : Word
  /-- `MP_RET` (R42). -/
  mpRet : RetTo
  /-- `PT_N` (R43). -/
  ptN : Word
  /-- `PT_D` (R43). -/
  ptD : Word
  /-- `PT_R` (R43). -/
  ptR : BitVec 5
  /-- `PT_I` (R43). -/
  ptI : BitVec 2
  /-- `PT_J` (R43). -/
  ptJ : BitVec 5
  /-- `PT_M` (R43). -/
  ptM : Word
  /-- `W_A` (R44). -/
  wA : Word
  /-- `W_E` (R44). -/
  wE : Word
  /-- `W_M` (R44). -/
  wM : Word
deriving DecidableEq, Repr

/-- One bus transaction at the port, the triple `(we, addr, data)` of 30_encoding.md R87: the signals `bus_we`, `bus_addr`
and `bus_wdata` in a cycle with `bus_sel = 1` (10_state.md R21). -/
structure Xact where
  we : Bool
  addr : BitVec 4
  data : Word
deriving DecidableEq, Repr

/-- An access in the byte-addressed space a platform maps the window into (20_memory.md R63 to R65): a read of `width` bytes,
or a write of the given bytes in address order. -/
inductive MappedReq where
  | load (addr width : Nat)
  | store (addr : Nat) (bytes : List Byte)
deriving DecidableEq, Repr

/-- What the environment does in one clock cycle. -/
inductive HostOp where
  /-- No access: `bus_sel = 0`. -/
  | idle
  /-- One bus access; a read's value is bound to the name, if there is one (30_encoding.md R86, R87). -/
  | access (x : Xact) (bind : Option String)
  /-- One access through a byte-addressed mapping (20_memory.md R63 to R65). -/
  | mapped (r : MappedReq)
  /-- Read the register until `(t & mask) == val` (30_encoding.md R88 `WAIT`): one read a cycle. -/
  | wait (addr : BitVec 4) (mask val : Word)
  /-- Wait for `irq = 1`, with no access (95_test_vectors.md program 2; log 17). -/
  | waitIrq
  /-- A cycle with `rst = 1`, and the access the port presents in it, if any (70_reset_and_hazards.md R230, R232). -/
  | rst (x : Option Xact)
deriving DecidableEq, Repr

/-- The environment of the block: the model's own fields (logs 1, 2, 14, 17). -/
structure Env where
  /-- What the host and platform do in the coming cycles, one entry a cycle, first entry first. Past its end: no access. -/
  host : List HostOp
  /-- Whether the engine's current step finishes in the coming cycles (`STEP_CYCLES`, R7, R241). Past its end: it does. -/
  turns : List Bool
  /-- `bus_rdata` of the last cycle: the value read, or none where the cycle was no read (10_state.md R21, 20_memory.md R62). -/
  busRdata : Option Word
  /-- The host's script variables, newest first (30_encoding.md R86). -/
  vars : List (String × Word)
deriving DecidableEq, Repr

/-- The whole machine. -/
structure State where
  regs : Regs
  engine : Engine
  env : Env
deriving DecidableEq, Repr

/-- Why the model stops with a fault. -/
inductive Fault where
  /-- A mapped access whose address lies outside the 64-byte window (20_memory.md R60). Raised by `mapAccess`. Safe: the
  block does not see such an access (log 9). -/
  | outsideWindow
  /-- The exponentiator would take a remainder by 0, which the pseudocode never does (00_scope.md R9). Raised by
  `stepMpLoop`, only in states outside R51. Safe (log 10). -/
  | remainderByZero
  /-- The witness engine would read `BASES[3]`, which does not exist (10_state.md R45). Raised by `stepPtSq`, only in states
  outside R51. Safe (log 10). -/
  | noSuchBase
deriving DecidableEq, Repr

/-- Why the model refuses a step. -/
inductive Refusal where
  /-- An instruction that has no meaning yet, by its mnemonic. Raised by no arm of this model. Safe. -/
  | notModelled (mnemonic : String)
  /-- A mapped access whose byte address is no multiple of 4 (20_memory.md R63). Raised by `mapAccess`. Safe (log 8). -/
  | misaligned
  /-- A mapped access that does not move exactly 32 bits (20_memory.md R65). Raised by `mapAccess`. Safe (log 8). -/
  | badWidth
deriving DecidableEq, Repr

/-- The outcome of a step of this machine. -/
abbrev Result := Host.Outcome State Fault Refusal

/-- The host-visible registers after reset (10_state.md R50). -/
def Regs.reset : Regs where
  ctrlIE := false
  busy := false
  done := false
  err := false
  ovr := false
  errcode := .none
  opa := 0#32
  opb := 0#32
  opm := 0#32
  result := 0#32
  dreg := 0#32
  rreg := 0#5
  infoExit := .none
  infoBt := 0#2
  witness := 0#32

/-- The engine after reset: `ENG_STATE = IDLE` (10_state.md R50). DESIGN CHOICE, unsafe: R50 leaves every working register
unspecified and unobservable ("A model may hold any value"); this model names 0, and HOST for `MP_RET` (log 4). -/
def Engine.reset : Engine where
  state := .idle
  mpAcc := 0#64
  mpB := 0#64
  mpE := 0#32
  mpM := 0#32
  mpRes := 0#32
  mpRet := .host
  ptN := 0#32
  ptD := 0#32
  ptR := 0#5
  ptI := 0#2
  ptJ := 0#5
  ptM := 0#32
  wA := 0#32
  wE := 0#32
  wM := 0#32

/-- No pending operation, no stall, no value read, no variable (log 2). -/
def Env.quiet : Env where
  host := []
  turns := []
  busRdata := none
  vars := []

/-- The machine right after reset (10_state.md R50, 70_reset_and_hazards.md R233). -/
def State.reset : State where
  regs := Regs.reset
  engine := Engine.reset
  env := Env.quiet

/-- The next state of an outcome, if it has one. -/
def nextOf? : Result → Option State
  | .next s => some s
  | .fault _ => none
  | .refused _ => none

end Sys2Proof.Machine
end

