-- ==== Sys2Proof/Machine/Flags.lean ====
section
/-! DEFINITION. The flags of `STATUS` (10_state.md R26 to R31, R49), the words of `STATUS`, `CTRL`, `RREG` and `INFO`, and
`irq` (60_exceptions.md R200). -/

namespace Sys2Proof.Machine

/-- The 4-bit code of an error (60_exceptions.md R190). -/
def ErrCode.code : ErrCode → BitVec 4
  | .none => 0#4
  | .badOpcode => 1#4
  | .rsvdBits => 2#4
  | .modZero => 3#4
  | .nLt2 => 4#4

/-- The 3-bit code of an exit (10_state.md R39). -/
def Exit.code : Exit → BitVec 3
  | .none => 0#3
  | .fastSmall => 1#3
  | .fastEven => 2#3
  | .witness => 3#3
  | .allPassed => 4#3
  | .early => 5#3

/-- The `CTRL` word: `IE` at bit 0, reserved bits 0 (10_state.md R25). -/
def Regs.ctrlWord (r : Regs) : Word := 0#31 ++ BitVec.ofBool r.ctrlIE

/-- The `STATUS` word: `BUSY` 0, `DONE` 1, `ERR` 2, `OVR` 3, `ERRCODE` 7:4, reserved bits 0 (10_state.md R26). -/
def Regs.statusWord (r : Regs) : Word :=
  0#24 ++ r.errcode.code ++ BitVec.ofBool r.ovr ++ BitVec.ofBool r.err ++ BitVec.ofBool r.done ++ BitVec.ofBool r.busy

/-- The `RREG` word: `r` at 4:0, bits 31:5 read 0 (10_state.md R38). -/
def Regs.rregWord (r : Regs) : Word := 0#27 ++ r.rreg

/-- The `INFO` word: `EXIT` 2:0, bit 3 reads 0, `BT` 5:4, bits 31:6 read 0 (10_state.md R39). -/
def Regs.infoWord (r : Regs) : Word := 0#26 ++ r.infoBt ++ 0#1 ++ r.infoExit.code

/-- The W1C update of `STATUS` by a written word (10_state.md R26): bit 1 clears `DONE`, bit 2 clears `ERR` and `ERRCODE`,
bit 3 clears `OVR`; the other bits do nothing. -/
def Regs.statusW1C (v : Word) (r : Regs) : Regs :=
  { r with
    done := r.done && !v.getLsbD 1
    err := r.err && !v.getLsbD 2
    errcode := if v.getLsbD 2 then .none else r.errcode
    ovr := r.ovr && !v.getLsbD 3 }

/-- The flags a rejection with an error code writes (40_command_dispatch.md R110). -/
def Regs.flagsReject (code : ErrCode) (r : Regs) : Regs :=
  { r with done := true, err := true, errcode := code }

/-- The flag an overrun writes (40_command_dispatch.md R104). -/
def Regs.flagsOverrun (r : Regs) : Regs := { r with ovr := true }

/-- The flags an acceptance writes (40_command_dispatch.md R111). -/
def Regs.flagsAccept (r : Regs) : Regs :=
  { r with busy := true, done := false, err := false, errcode := .none }

/-- The flags a completion writes (41_modpow.md R128, 42_isprime.md R167). -/
def Regs.flagsComplete (r : Regs) : Regs := { r with done := true, busy := false }

/-- The interrupt output: `CTRL.IE & STATUS.DONE` (60_exceptions.md R200). -/
def State.irq (s : State) : Bool := s.regs.ctrlIE && s.regs.done

end Sys2Proof.Machine
end

