-- ==== Sys2Proof/Machine/Operands.lean ====
section
/-! DEFINITION. Operand assembly (30_encoding.md R83): which register each operand of a command is, and how an operand enters
the 64-bit datapath. Nothing is scaled, shifted or sign-extended. -/

namespace Sys2Proof.Machine

/-- MODPOW's `base` (R83, R120). -/
def modpowBase (s : State) : Word := s.regs.opa

/-- MODPOW's `exponent` (R83, R120). -/
def modpowExponent (s : State) : Word := s.regs.opb

/-- MODPOW's `modulus` (R83, R120). -/
def modpowModulus (s : State) : Word := s.regs.opm

/-- ISPRIME's `n` (R83, R160). -/
def isprimeN (s : State) : Word := s.regs.opa

/-- `zext_64` (00_scope.md R9). -/
def zext64 (v : Word) : DWord := v.setWidth 64

/-- `trunc_32` (00_scope.md R9). -/
def trunc32 (v : DWord) : Word := v.setWidth 32

/-- `BASES[i]`; none at `i = 3` (10_state.md R43, R45). -/
def baseAt (i : BitVec 2) : Option Word := Config.bases[i.toNat]?

end Sys2Proof.Machine
end

