-- ==== Sys2Proof/Machine/Ops.lean ====
section
/-! DEFINITION. The named operations over the registers: rejection, which is the block's only exception, and the acknowledge
that stands for a return from it (60_exceptions.md R197, R198); overrun; acceptance; completion; the register reads and the
register writes other than `CMD`; reset. -/

namespace Sys2Proof.Machine

/-- `Reject(code)`, the taking of the block's one exception (00_scope.md R11, 40_command_dispatch.md R110, 60_exceptions.md
R197): `DONE`, `ERR` and `ERRCODE` are written and nothing else; no state is saved and no control moves. -/
def reject (code : ErrCode) (s : State) : State := { s with regs := s.regs.flagsReject code }

/-- The acknowledge of a rejection, an overrun or a completion: the W1C write of `STATUS` (10_state.md R26, 60_exceptions.md
R198). It is what the block has in the place of a return from an exception. -/
def acknowledge (v : Word) (s : State) : State := { s with regs := s.regs.statusW1C v }

/-- A command write while `BUSY = 1` (40_command_dispatch.md R104): `OVR <- 1` and nothing else. -/
def overrun (s : State) : State := { s with regs := s.regs.flagsOverrun }

/-- `Accept(MODPOW)` (40_command_dispatch.md R111): the working copies, the flags, `goto MP_START`. -/
def acceptModpow (s : State) : State :=
  { s with
    regs := s.regs.flagsAccept
    engine := { s.engine with
      wA := modpowBase s
      wE := modpowExponent s
      wM := modpowModulus s
      state := .mpStart } }

/-- `Accept(ISPRIME)` (40_command_dispatch.md R111): the working copy, the flags, `goto PT_START`. -/
def acceptIsprime (s : State) : State :=
  { s with
    regs := s.regs.flagsAccept
    engine := { s.engine with ptN := isprimeN s, state := .ptStart } }

/-- The values a completion writes to the result registers (41_modpow.md R128, 42_isprime.md R167). -/
structure Completion where
  res : Word
  exit : Exit
  bt : BitVec 2
  wit : Word
  d : Word
  r : BitVec 5
deriving DecidableEq, Repr

/-- Completion: the result registers and the flags (41_modpow.md R128, 42_isprime.md R167). `ENG_STATE` goes to IDLE in the
engine step that completes. -/
def complete (c : Completion) (s : State) : State :=
  { s with
    regs := { s.regs.flagsComplete with
      result := c.res
      infoExit := c.exit
      infoBt := c.bt
      witness := c.wit
      dreg := c.d
      rreg := c.r } }

/-- The value a register read returns (10_state.md R22 to R40, 20_memory.md R62). -/
def readReg (n : RegName) (s : State) : Word :=
  match n with
  | .id => Config.idValue
  | .ctrl => s.regs.ctrlWord
  | .status => s.regs.statusWord
  | .cmd => 0#32
  | .opa => s.regs.opa
  | .opb => s.regs.opb
  | .opm => s.regs.opm
  | .result => s.regs.result
  | .dreg => s.regs.dreg
  | .rreg => s.regs.rregWord
  | .info => s.regs.infoWord
  | .witness => s.regs.witness

/-- `BusRead` at a word index (20_memory.md R62): a register's value, and 0 at the reserved words (R67). -/
def busRead (addr : BitVec 4) (s : State) : Word :=
  match RegName.ofIndex addr with
  | some n => readReg n s
  | none => 0#32

/-- A write of `CTRL`: `IE <- v[0]` and nothing else (10_state.md R25). -/
def writeCtrl (v : Word) (s : State) : State := { s with regs := { s.regs with ctrlIE := v.getLsbD 0 } }

/-- A write of `OPA`: the whole word (10_state.md R33). -/
def writeOpa (v : Word) (s : State) : State := { s with regs := { s.regs with opa := v } }

/-- A write of `OPB`: the whole word (10_state.md R34). -/
def writeOpb (v : Word) (s : State) : State := { s with regs := { s.regs with opb := v } }

/-- A write of `OPM`: the whole word (10_state.md R35). -/
def writeOpm (v : Word) (s : State) : State := { s with regs := { s.regs with opm := v } }

/-- One rising edge with `rst = 1` (70_reset_and_hazards.md R230, R231): the reset values of R50 and nothing else; a running
command is abandoned. The environment is no part of the block and goes on. -/
def resetEdge (s : State) : State := { State.reset with env := s.env }

/-- Sequencing of outcomes: the second runs on the first's next state; a fault or a refusal stops. -/
def andThen (a : Result) (f : State → Result) : Result :=
  match a with
  | .next s => f s
  | .fault r => .fault r
  | .refused r => .refused r

end Sys2Proof.Machine
end

