-- ==== Sys2Proof/Machine/Modpow.lean ====
section
/-! DEFINITION. MODPOW and the exponentiator (41_modpow.md): the meaning of the command word, the modular product, the call
and return of the exponentiator, and its two engine steps. -/

namespace Sys2Proof.Machine

/-- The meaning of `MODPOW`: what its word written to `CMD` does (40_command_dispatch.md R100, R104, R108, R111; 41_modpow.md
R120). The computation follows in the engine steps below (log 19). -/
def execModpow (s : State) : Result :=
  if s.regs.busy then .next (overrun s)
  else if modpowModulus s = 0#32 then .next (reject .modZero s)
  else .next (acceptModpow s)

/-- `ModMul(x, y, m)` for `m ≥ 1` (41_modpow.md R122): both factors reduced first, an exact 64-bit product, reduced again. -/
def modMul (x y : DWord) (m : Word) : DWord :=
  let xr := trunc32 (x % zext64 m)
  let yr := trunc32 (y % zext64 m)
  let p := zext64 xr * zext64 yr
  zext64 (trunc32 (p % zext64 m))

/-- The engine's registers after an engine step, and the completion the step performs, if any. -/
abbrev EngineNext := Engine × Option Completion

/-- The completion of a MODPOW: `RESULT <- MP_RES`, all the diagnostic registers 0 (41_modpow.md R128). -/
def modpowCompletion (c : Engine) : Completion where
  res := c.mpRes
  exit := .none
  bt := 0#2
  wit := 0#32
  d := 0#32
  r := 0#5

/-- `Return(ret)` (41_modpow.md R127). -/
def returnTo (ret : RetTo) (c : Engine) : EngineNext :=
  match ret with
  | .host => ({ c with state := .idle }, some (modpowCompletion c))
  | .ptPowret => ({ c with state := .ptPowret }, none)
  | .ptSqret => ({ c with state := .ptSqret }, none)

/-- `MpCall(base, e, m, ret)` (41_modpow.md R123, R124): exponent 0 returns 1 at once; otherwise the loop is set up. -/
def mpCall (base e m : Word) (ret : RetTo) (c : Engine) : EngineNext :=
  if e = 0#32 then returnTo ret { c with mpRes := 1#32 }
  else
    ({ c with
        mpAcc := 1#64
        mpB := zext64 base
        mpE := e
        mpM := m
        mpRet := ret
        state := .mpLoop }, none)

/-- `step MP_START` (41_modpow.md R125). -/
def stepMpStart (c : Engine) : Host.Outcome EngineNext Fault Refusal :=
  .next (mpCall c.wA c.wE c.wM .host c)

/-- One iteration of the square-and-multiply loop: both products read the old `MP_B` (41_modpow.md R126, 00_scope.md R12,
70_reset_and_hazards.md R245). -/
def mpIterate (c : Engine) : Engine :=
  { c with
    mpAcc := if c.mpE.getLsbD 0 then modMul c.mpAcc c.mpB c.mpM else c.mpAcc
    mpB := modMul c.mpB c.mpB c.mpM
    mpE := c.mpE >>> 1 }

/-- `step MP_LOOP` (41_modpow.md R126): the return when the exponent is used up, else one iteration. `MP_M = 0` is outside
R51 and stops (log 10). -/
def stepMpLoop (c : Engine) : Host.Outcome EngineNext Fault Refusal :=
  if c.mpM = 0#32 then .fault .remainderByZero
  else if c.mpE = 0#32 then
    .next (returnTo c.mpRet { c with mpRes := trunc32 (c.mpAcc % zext64 c.mpM) })
  else .next (mpIterate c, none)

end Sys2Proof.Machine
end

