-- ==== Sys2Proof/Machine/Isprime.lean ====
section
/-! DEFINITION. ISPRIME and the witness engine (42_isprime.md): the meaning of the command word and the six engine steps. -/

namespace Sys2Proof.Machine

/-- The meaning of `ISPRIME`: what its word written to `CMD` does (40_command_dispatch.md R100, R104, R109, R111; 42_isprime.md
R160). The computation follows in the engine steps below (log 19). -/
def execIsprime (s : State) : Result :=
  if s.regs.busy then .next (overrun s)
  else if isprimeN s < 2#32 then .next (reject .nLt2 s)
  else .next (acceptIsprime s)

/-- `Complete(res, exit, bt, wit, d, r)` within an engine step: the engine goes to IDLE (42_isprime.md R167). -/
def ptComplete (v : Completion) (c : Engine) : EngineNext := ({ c with state := .idle }, some v)

/-- A completion of a fast path: no base, no decomposition (42_isprime.md R161). -/
def fastCompletion (res : Word) (exit : Exit) : Completion where
  res := res
  exit := exit
  bt := 0#2
  wit := 0#32
  d := 0#32
  r := 0#5

/-- `step PT_START`, the fast paths (42_isprime.md R161). -/
def stepPtStart (c : Engine) : Host.Outcome EngineNext Fault Refusal :=
  if c.ptN = 2#32 ∨ c.ptN = 3#32 then .next (ptComplete (fastCompletion 1#32 .fastSmall) c)
  else if c.ptN.getLsbD 0 = false then .next (ptComplete (fastCompletion 0#32 .fastEven) c)
  else .next ({ c with ptD := c.ptN - 1#32, ptR := 0#5, state := .ptDecomp }, none)

/-- `step PT_DECOMP`, one halving (42_isprime.md R162). `PT_R` wraps at 5 bits, out of reach of R51 (log 11). -/
def stepPtDecomp (c : Engine) : Host.Outcome EngineNext Fault Refusal :=
  if c.ptD.getLsbD 0 = false then .next ({ c with ptD := c.ptD >>> 1, ptR := c.ptR + 1#5 }, none)
  else .next ({ c with ptI := 0#2, state := .ptBase }, none)

/-- `step PT_BASE`: every base done, early termination, or the call `modpow(b, d, n)` (42_isprime.md R163). `baseAt` answers
none exactly at `PT_I = 3`. -/
def stepPtBase (c : Engine) : Host.Outcome EngineNext Fault Refusal :=
  match baseAt c.ptI with
  | none =>
    .next (ptComplete { res := 1#32, exit := .allPassed, bt := 3#2, wit := 0#32, d := c.ptD, r := c.ptR } c)
  | some b =>
    if c.ptN ≤ b then
      .next (ptComplete { res := 1#32, exit := .early, bt := c.ptI, wit := 0#32, d := c.ptD, r := c.ptR } c)
    else .next (mpCall b c.ptD c.ptN .ptPowret c)

/-- The current base is no witness: `PT_I <- PT_I + 1; goto PT_BASE` (42_isprime.md R164, R166). -/
def nextBase (c : Engine) : Engine := { c with ptI := c.ptI + 1#2, state := .ptBase }

/-- `step PT_POWRET`, the first test of a base (42_isprime.md R164). The test reads the new `PT_M`. -/
def stepPtPowret (c : Engine) : Host.Outcome EngineNext Fault Refusal :=
  let c' := { c with ptM := c.mpRes }
  if c'.ptM = 1#32 ∨ c'.ptM = c.ptN - 1#32 then .next (nextBase c', none)
  else .next ({ c' with ptJ := 0#5, state := .ptSq }, none)

/-- `step PT_SQ`: the witness verdict, or the next squaring (42_isprime.md R165). `PT_J == PT_R − 1` is compared as exact
numbers (log 12). -/
def stepPtSq (c : Engine) : Host.Outcome EngineNext Fault Refusal :=
  if c.ptJ.toNat + 1 = c.ptR.toNat then
    match baseAt c.ptI with
    | none => .fault .noSuchBase
    | some b =>
      .next (ptComplete { res := 0#32, exit := .witness, bt := c.ptI + 1#2, wit := b, d := c.ptD, r := c.ptR } c)
  else .next (mpCall c.ptM 2#32 c.ptN .ptSqret c)

/-- `step PT_SQRET`, the test after each squaring (42_isprime.md R166). The test reads the new `PT_M`. -/
def stepPtSqret (c : Engine) : Host.Outcome EngineNext Fault Refusal :=
  let c' := { c with ptM := c.mpRes, ptJ := c.ptJ + 1#5 }
  if c'.ptM = c.ptN - 1#32 then .next (nextBase c', none)
  else .next ({ c' with state := .ptSq }, none)

end Sys2Proof.Machine
end

