-- ==== Sys2Proof/Machine/Dispatch.lean ====
section
/-! DEFINITION. One arm per command: what its word written to `CMD` does (40_command_dispatch.md R100). -/

namespace Sys2Proof.Machine

def exec (i : Instr) (s : State) : Host.Outcome State Fault Refusal :=
  match i with
  | .modpow => Sys2Proof.Machine.execModpow s
  | .isprime => Sys2Proof.Machine.execIsprime s

end Sys2Proof.Machine
end

