-- ==== Sys2Proof/Machine/Bus.lean ====
section
/-! DEFINITION. The bus port: `Dispatch(v)` (40_command_dispatch.md R100), `BusWrite` (20_memory.md R61), one transaction, and
the mapping of a platform's byte-addressed access onto it (R63 to R65). -/

namespace Sys2Proof.Machine

/-- The error code a rejected word reports (40_command_dispatch.md R103, R106, R107). -/
def cmdErrCode : CmdError → ErrCode
  | .rsvdBits => .rsvdBits
  | .badOpcode => .badOpcode

/-- `Dispatch(v)` (40_command_dispatch.md R100, R101): `BUSY` first, then the word's own checks, then the command. -/
def commandWrite (v : Word) (s : State) : Result :=
  if s.regs.busy then .next (overrun s)
  else
    match decodeWord v with
    | .ok i => exec i s
    | .error e => .next (reject (cmdErrCode e) s)

/-- `BusWrite` at a word index (20_memory.md R61): read-only and reserved words ignore the write (10_state.md R23, R67). -/
def busWrite (addr : BitVec 4) (v : Word) (s : State) : Result :=
  match RegName.ofIndex addr with
  | some .ctrl => .next (writeCtrl v s)
  | some .status => .next (acknowledge v s)
  | some .cmd => commandWrite v s
  | some .opa => .next (writeOpa v s)
  | some .opb => .next (writeOpb v s)
  | some .opm => .next (writeOpm v s)
  | some .id => .next s
  | some .result => .next s
  | some .dreg => .next s
  | some .rreg => .next s
  | some .info => .next s
  | some .witness => .next s
  | none => .next s

/-- The effect of a cycle's access on the block: a write's effect; a read changes nothing (20_memory.md R61, R66). -/
def busAccess (x : Option Xact) (s : State) : Result :=
  match x with
  | none => .next s
  | some x => if x.we then busWrite x.addr x.data s else .next s

/-- The word index of a byte address inside the window; a width other than 4 bytes and an address that is no multiple of 4
are refused, and an address outside the window faults (20_memory.md R60, R63, R65; logs 8, 9). -/
def mapAddr (addr width : Nat) : Host.Outcome (BitVec 4) Fault Refusal :=
  if width ≠ 4 then .refused .badWidth
  else if addr % 4 ≠ 0 then .refused .misaligned
  else if addr < Config.baseAddr ∨ Config.baseAddr + Config.windowBytes ≤ addr then .fault .outsideWindow
  else .next (BitVec.ofNat 4 ((addr - Config.baseAddr) / 4))

/-- The port transaction of a mapped access (20_memory.md R63 to R65); the bytes of a write are in address order. -/
def mapAccess (r : MappedReq) : Host.Outcome Xact Fault Refusal :=
  match r with
  | .load addr width =>
    match mapAddr addr width with
    | .next i => .next { we := false, addr := i, data := 0#32 }
    | .fault f => .fault f
    | .refused f => .refused f
  | .store addr bytes =>
    match mapAddr addr bytes.length, wordOfBytes bytes with
    | .next i, some v => .next { we := true, addr := i, data := v }
    | .next _, none => .refused .badWidth
    | .fault f, _ => .fault f
    | .refused f, _ => .refused f

end Sys2Proof.Machine
end

