-- ==== Sys2Proof/Machine/EngineStep.lean ====
section
/-! DEFINITION. One engine step (10_state.md R41): the step of the current `ENG_STATE` on the engine's own registers, and its
effect on the block. The engine reads nothing but its own registers (10_state.md R44, 20_memory.md R60). -/

namespace Sys2Proof.Machine

/-- One transition of the engine state machine (10_state.md R41). In IDLE the engine takes no step. -/
def coreStep (c : Engine) : Host.Outcome EngineNext Fault Refusal :=
  match c.state with
  | .idle => .next (c, none)
  | .mpStart => stepMpStart c
  | .mpLoop => stepMpLoop c
  | .ptStart => stepPtStart c
  | .ptDecomp => stepPtDecomp c
  | .ptBase => stepPtBase c
  | .ptPowret => stepPtPowret c
  | .ptSq => stepPtSq c
  | .ptSqret => stepPtSqret c

/-- The engine's registers after an engine step, and the completion's writes in the same step (41_modpow.md R128, 42_isprime.md
R167). -/
def settle (n : EngineNext) (s : State) : State :=
  match n.2 with
  | none => { s with engine := n.1 }
  | some v => complete v { s with engine := n.1 }

/-- One engine step of the block. -/
def engineStep (s : State) : Result :=
  match coreStep s.engine with
  | .next n => .next (settle n s)
  | .fault f => .fault f
  | .refused r => .refused r

/-- `k` engine steps in a row, with no bus access between them. -/
def engineRun : Nat → State → Result
  | 0, s => .next s
  | k + 1, s => andThen (engineStep s) (engineRun k)

end Sys2Proof.Machine
end

