-- ==== Sys2Proof/Machine/Cycle.lean ====
section
/-! DEFINITION. One clock cycle of the port (10_state.md R21, 20_memory.md R70, R71): what the environment presents, what it
takes away, and the order of the bus access and the engine step. -/

namespace Sys2Proof.Machine

/-- The inputs of one cycle: `rst`, and the access where `bus_sel = 1` (10_state.md R21). -/
structure PortIn where
  rst : Bool
  access : Option Xact
deriving DecidableEq, Repr

/-- What the environment presents in this cycle. A mapped access that the port cannot express stops by name. -/
def portIn (s : State) : Host.Outcome PortIn Fault Refusal :=
  match s.env.host with
  | [] => .next { rst := false, access := none }
  | .idle :: _ => .next { rst := false, access := none }
  | .access x _ :: _ => .next { rst := false, access := some x }
  | .mapped r :: _ =>
    match mapAccess r with
    | .next x => .next { rst := false, access := some x }
    | .fault f => .fault f
    | .refused f => .refused f
  | .wait a _ _ :: _ => .next { rst := false, access := some { we := false, addr := a, data := 0#32 } }
  | .waitIrq :: _ => .next { rst := false, access := none }
  | .rst x :: _ => .next { rst := true, access := x }

/-- `bus_rdata` in this cycle: the value at the start of the cycle (20_memory.md R62), 0 while `rst = 1`
(70_reset_and_hazards.md R232), none where the cycle is no read. -/
def portRead (p : PortIn) (s : State) : Option Word :=
  match p.access with
  | none => none
  | some x => if x.we then none else if p.rst then some 0#32 else some (busRead x.addr s)

/-- The host's operations after this cycle: a wait whose condition does not hold yet stays (30_encoding.md R88). -/
def hostAfter (s : State) : List HostOp :=
  match s.env.host with
  | [] => []
  | .idle :: rest => rest
  | .access _ _ :: rest => rest
  | .mapped _ :: rest => rest
  | .wait a mask val :: rest => if busRead a s &&& mask = val then rest else s.env.host
  | .waitIrq :: rest => if s.irq then rest else s.env.host
  | .rst _ :: rest => rest

/-- The host's variables after this cycle: a read with a name binds it (30_encoding.md R86). -/
def varsAfter (p : PortIn) (s : State) : List (String × Word) :=
  match s.env.host with
  | .access _ (some name) :: _ =>
    match portRead p s with
    | some v => (name, v) :: s.env.vars
    | none => s.env.vars
  | _ => s.env.vars

/-- The environment moves past this cycle; the block is untouched. -/
def advance (p : PortIn) (s : State) : State :=
  { s with
    env :=
      { host := hostAfter s
        turns := s.env.turns.tail
        busRdata := portRead p s
        vars := varsAfter p s } }

/-- Does the engine finish a step in this cycle: it is running at the start of the cycle, and its step ends in it. A command
accepted in this cycle takes its first step later (40_command_dispatch.md R111, 70_reset_and_hazards.md R241; logs 1, 20). -/
def engineTurn (s : State) : Bool := s.env.turns.headD true && decide (s.engine.state ≠ .idle)

/-- The engine's part of a cycle. -/
def enginePhase (turn : Bool) (s : State) : Result := if turn then engineStep s else .next s

/-- One cycle of the block with `rst = 0`: the bus access, then the engine step (20_memory.md R71); with `rst = 1`: the reset
values and nothing else (70_reset_and_hazards.md R230, R232). -/
def clockEdge (p : PortIn) (s : State) : Result :=
  if p.rst then .next (resetEdge (advance p s))
  else andThen (busAccess p.access (advance p s)) (enginePhase (engineTurn s))

/-- The next cycle of the machine. -/
def cycle (s : State) : Result :=
  match portIn s with
  | .next p => clockEdge p s
  | .fault f => .fault f
  | .refused r => .refused r

/-- The value of a host variable: its newest binding (30_encoding.md R86). -/
def State.var (name : String) (s : State) : Option Word := s.env.vars.lookup name

end Sys2Proof.Machine
end

