-- ==== Sys2Proof/Machine/Script.lean ====
section
/-! DEFINITION. The host-script notation (30_encoding.md R86 to R88): the transaction of a line, the expansion of the
pseudo-instructions, and the assembly of a script into the host operations the machine runs. -/

namespace Sys2Proof.Machine

/-- The byte offset a register reference stands for (30_encoding.md R86). -/
def RegRef.offset : RegRef → Nat
  | .named r => r.offset
  | .literal off => off

/-- `addr = offset[5:2]` (30_encoding.md R87). -/
def RegRef.addr (r : RegRef) : BitVec 4 := BitVec.ofNat 4 (r.offset / 4)

/-- The triple `(we, addr, data)` of a line (30_encoding.md R87). -/
def ScriptLine.encode : ScriptLine → Xact
  | .wr reg v => { we := true, addr := reg.addr, data := BitVec.ofNat 32 v }
  | .rd reg _ => { we := false, addr := reg.addr, data := 0#32 }

/-- The host operation of a line. -/
def ScriptLine.op (l : ScriptLine) : HostOp :=
  match l with
  | .wr _ _ => .access l.encode none
  | .rd _ name => .access l.encode (some name)

/-- `WR <reg>, <value>` for a named register. -/
def wrOp (r : RegName) (v : Nat) : HostOp := (ScriptLine.wr (.named r) v).op

/-- The expansions of 30_encoding.md R88. -/
def ScriptItem.expand : ScriptItem → List HostOp
  | .line l => [l.op]
  | .modpow a e m => [wrOp .opa a, wrOp .opb e, wrOp .opm m, wrOp .cmd 0x00000001]
  | .isprime n => [wrOp .opa n, wrOp .cmd 0x00000002]
  | .wait reg mask val => [.wait reg.addr (BitVec.ofNat 32 mask) (BitVec.ofNat 32 val)]
  | .waitDone => [.wait (RegRef.named .status).addr 0x00000002#32 0x00000002#32]
  | .ack => [wrOp .status 0x0000000E]
  | .enIrq => [wrOp .ctrl 0x00000001]
  | .waitIrq => [.waitIrq]

/-- The host operations of a script; none where an item is not well formed. -/
def assemble (items : List ScriptItem) : Option (List HostOp) :=
  if items.all ScriptItem.wellFormed then some (items.flatMap ScriptItem.expand) else none

/-- The machine with a script as the host's coming operations. -/
def State.withScript (s : State) (ops : List HostOp) : State := { s with env := { s.env with host := ops } }

end Sys2Proof.Machine
end

