-- ==== Sys2Proof/Machine/Step.lean ====
section
/-! DEFINITION. One step of the machine: one clock cycle (log 1). -/

namespace Sys2Proof.Machine

/-- One clock cycle of the block and its environment. -/
def step (s : State) : Host.Outcome State Fault Refusal := cycle s

/-- The machine in which the next cycle writes the given word to `CMD` and the engine finishes no step in that cycle, so that
the next step runs exactly that command word (log 3). -/
def State.withFetchWord (s : State) (nbits w : Nat) : State :=
  { s with
    env := { s.env with
      host := .access { we := true, addr := RegName.cmd.index, data := BitVec.ofNat 32 (w % 2 ^ nbits) } none :: s.env.host
      turns := false :: s.env.turns } }

end Sys2Proof.Machine
end

