-- ==== Sys2Proof/Safety.lean ====
section
/-! DEFINITION. The terms the statements use: what the two commands compute (41_modpow.md R129, 42_isprime.md R168, R169), the
invariants of the machine (10_state.md R51), what "does not matter" means for the working registers (R50), and the host traffic
a running command lives through. -/

namespace Sys2Proof.Machine

/-! What the commands compute -/

/-- MODPOW's result (41_modpow.md R129): 1 when the exponent is 0, else the exact power's remainder. -/
def modpowSpec (b e m : Nat) : Nat := if e = 0 then 1 else b ^ e % m

/-- "while d even: d <- d >> 1; r <- r + 1" (42_isprime.md R168), at most `fuel` times; 32 halvings are enough below `2^32`. -/
def halveWhileEven : Nat → Nat → Nat → Nat × Nat
  | 0, d, r => (d, r)
  | fuel + 1, d, r => if d % 2 = 0 then halveWhileEven fuel (d / 2) (r + 1) else (d, r)

/-- The decomposition `(d, r)` of `n - 1` (42_isprime.md R162, R168). -/
def decomposition (n : Nat) : Nat × Nat := halveWhileEven 32 (n - 1) 0

/-- "repeat k times: m <- modpow(m, 2, n); if m == n − 1: passed" (42_isprime.md R168). -/
def squaringsPass (n : Nat) : Nat → Nat → Bool
  | 0, _ => false
  | k + 1, m =>
    let m' := modpowSpec m 2 n
    if m' = n - 1 then true else squaringsPass n k m'

/-- One base of the loop of 42_isprime.md R168: it passes, or it is a witness. -/
def basePasses (n d r b : Nat) : Bool :=
  let m := modpowSpec b d n
  if m = 1 ∨ m = n - 1 then true else squaringsPass n (r - 1) m

/-- The loop over the bases of 42_isprime.md R168, with early termination. -/
def basesResult (n d r : Nat) : List Nat → Nat
  | [] => 1
  | b :: bs => if n ≤ b then 1 else if basePasses n d r b then basesResult n d r bs else 0

/-- The witness bases as numbers (10_state.md R45). -/
def baseList : List Nat := [2, 7, 61]

/-- The sequential program of 42_isprime.md R168. -/
def isPrimeSpec (n : Nat) : Nat :=
  if n = 2 ∨ n = 3 then 1
  else if n % 2 = 0 then 0
  else basesResult n (decomposition n).1 (decomposition n).2 baseList

/-- What an ISPRIME completion writes, as numbers (42_isprime.md R167). -/
structure Verdict where
  res : Nat
  exit : Exit
  bt : Nat
  wit : Nat
  d : Nat
  r : Nat
deriving DecidableEq, Repr

/-- The loop over the bases with the diagnostic values of 42_isprime.md R163 and R165; `k` bases have passed. -/
def basesVerdict (n d r : Nat) : List Nat → Nat → Verdict
  | [], k => { res := 1, exit := .allPassed, bt := k, wit := 0, d := d, r := r }
  | b :: bs, k =>
    if n ≤ b then { res := 1, exit := .early, bt := k, wit := 0, d := d, r := r }
    else if basePasses n d r b then basesVerdict n d r bs (k + 1)
    else { res := 0, exit := .witness, bt := k + 1, wit := b, d := d, r := r }

/-- Everything an ISPRIME completion writes, for `n ≥ 2` (42_isprime.md R161 to R167). -/
def isPrimeVerdict (n : Nat) : Verdict :=
  if n = 2 ∨ n = 3 then { res := 1, exit := .fastSmall, bt := 0, wit := 0, d := 0, r := 0 }
  else if n % 2 = 0 then { res := 0, exit := .fastEven, bt := 0, wit := 0, d := 0, r := 0 }
  else basesVerdict n (decomposition n).1 (decomposition n).2 baseList 0

/-- The registers hold a verdict (42_isprime.md R167). -/
def Regs.shows (r : Regs) (v : Verdict) : Prop :=
  r.result.toNat = v.res ∧ r.infoExit = v.exit ∧ r.infoBt.toNat = v.bt ∧ r.witness.toNat = v.wit ∧
    r.dreg.toNat = v.d ∧ r.rreg.toNat = v.r

/-- `b` is a witness that `n` is composite, for `n - 1 = d · 2^r` (42_isprime.md R169). -/
def isWitness (n d r b : Nat) : Prop :=
  b ^ d % n ≠ 1 ∧ ∀ k, k < r → b ^ (d * 2 ^ k) % n ≠ n - 1

/-! The invariant of the machine -/

/-- `n` is odd, at least 5, and `n - 1 = d · 2^r` (10_state.md R51, the line on PT_DECOMP to PT_SQRET). -/
def Engine.decomposing (c : Engine) : Prop :=
  c.ptN.toNat % 2 = 1 ∧ 5 ≤ c.ptN.toNat ∧ c.ptN.toNat - 1 = c.ptD.toNat * 2 ^ c.ptR.toNat

/-- `d` is odd and `r ≥ 1` (10_state.md R51). -/
def Engine.decomposed (c : Engine) : Prop :=
  c.decomposing ∧ c.ptD.toNat % 2 = 1 ∧ 1 ≤ c.ptR.toNat

/-- The current base exists and is below `n` (10_state.md R51). -/
def Engine.baseBelow (c : Engine) : Bool :=
  match baseAt c.ptI with
  | some b => decide (b < c.ptN)
  | none => false

/-- A base is being tested (10_state.md R51). -/
def Engine.testing (c : Engine) : Prop := c.decomposed ∧ c.baseBelow = true

/-- A squaring is under way: `PT_J` is below `PT_R - 1` and `m < n` (10_state.md R51; 42_isprime.md R165, R166). -/
def Engine.squaring (c : Engine) : Prop :=
  c.testing ∧ c.ptJ.toNat + 2 ≤ c.ptR.toNat ∧ c.ptM.toNat < c.ptN.toNat

/-- What the caller of a running exponentiator call relies on (41_modpow.md R124, R127; 42_isprime.md R163, R165). -/
def Engine.caller (c : Engine) : Prop :=
  match c.mpRet with
  | .host => True
  | .ptPowret => c.testing ∧ c.mpM = c.ptN
  | .ptSqret => c.squaring ∧ c.mpM = c.ptN

/-- The invariant of the engine's registers, state by state: 10_state.md R51, made inductive by what the running call's caller
relies on and by the bound on `MP_RES` at a return. -/
def Engine.Inv (c : Engine) : Prop :=
  match c.state with
  | .idle => True
  | .mpStart => 1 ≤ c.wM.toNat
  | .mpLoop => 1 ≤ c.mpM.toNat ∧ c.mpAcc.toNat < 2 ^ 32 ∧ c.mpB.toNat < 2 ^ 32 ∧ c.caller
  | .ptStart => 2 ≤ c.ptN.toNat
  | .ptDecomp => c.decomposing
  | .ptBase => c.decomposed
  | .ptPowret => c.testing ∧ c.mpRes.toNat < c.ptN.toNat
  | .ptSq => c.testing ∧ c.ptJ.toNat + 1 ≤ c.ptR.toNat ∧ c.ptM.toNat < c.ptN.toNat
  | .ptSqret => c.squaring ∧ c.mpRes.toNat < c.ptN.toNat

/-- The flags: an error code comes with `ERR` (10_state.md R31), and a running command has `DONE` and `ERR` clear (R28, R29,
R111). -/
def Regs.Inv (r : Regs) : Prop :=
  (r.errcode ≠ .none → r.err = true) ∧ (r.busy = true → r.done = false ∧ r.err = false)

/-- The invariant of the machine (10_state.md R27, R31, R51). -/
def State.Inv (s : State) : Prop :=
  (s.regs.busy = true ↔ s.engine.state ≠ .idle) ∧ s.regs.Inv ∧ s.engine.Inv

/-- The eight lines of 10_state.md R51, as they stand there. -/
def State.edgeFacts (s : State) : Prop :=
  (s.regs.busy = true ↔ s.engine.state ≠ .idle) ∧
  (s.regs.errcode ≠ .none → s.regs.err = true) ∧
  (s.engine.state = .mpLoop →
    1 ≤ s.engine.mpM.toNat ∧ s.engine.mpAcc.toNat < 2 ^ 32 ∧ s.engine.mpB.toNat < 2 ^ 32) ∧
  (s.engine.state ∈ [EngState.ptDecomp, .ptBase, .ptPowret, .ptSq, .ptSqret] →
    s.engine.ptN.toNat % 2 = 1 ∧ 5 ≤ s.engine.ptN.toNat ∧
      s.engine.ptN.toNat - 1 = s.engine.ptD.toNat * 2 ^ s.engine.ptR.toNat) ∧
  (s.engine.state ∈ [EngState.ptBase, .ptPowret, .ptSq, .ptSqret] →
    s.engine.ptD.toNat % 2 = 1 ∧ 1 ≤ s.engine.ptR.toNat) ∧
  (s.engine.state ∈ [EngState.ptPowret, .ptSq, .ptSqret] →
    s.engine.ptI.toNat ≤ 2 ∧ ∃ b, baseAt s.engine.ptI = some b ∧ b.toNat < s.engine.ptN.toNat) ∧
  (s.engine.state = .ptSq → s.engine.ptJ.toNat ≤ s.engine.ptR.toNat - 1) ∧
  (s.engine.state ∈ [EngState.ptSq, .ptSqret] → s.engine.ptM.toNat < s.engine.ptN.toNat)

/-- `DREG` and `RREG` hold a decomposition: `DREG` odd, `RREG ≥ 1`, and `DREG · 2^RREG + 1` a 32-bit number at least 5
(10_state.md R37, R38; 42_isprime.md R162). -/
def Regs.holdsDecomposition (r : Regs) : Prop :=
  r.dreg.toNat % 2 = 1 ∧ 1 ≤ r.rreg.toNat ∧ 4 ≤ r.dreg.toNat * 2 ^ r.rreg.toNat ∧
    r.dreg.toNat * 2 ^ r.rreg.toNat + 1 < 2 ^ 32

/-- The result registers agree with `INFO.EXIT` (10_state.md R36 to R40; 42_isprime.md R161, R163, R165). -/
def Regs.consistent (r : Regs) : Prop :=
  match r.infoExit with
  | .none => r.infoBt = 0#2 ∧ r.witness = 0#32 ∧ r.dreg = 0#32 ∧ r.rreg = 0#5
  | .fastSmall => r.result = 1#32 ∧ r.infoBt = 0#2 ∧ r.witness = 0#32 ∧ r.dreg = 0#32 ∧ r.rreg = 0#5
  | .fastEven => r.result = 0#32 ∧ r.infoBt = 0#2 ∧ r.witness = 0#32 ∧ r.dreg = 0#32 ∧ r.rreg = 0#5
  | .witness => r.result = 0#32 ∧ r.holdsDecomposition ∧
      baseList[r.infoBt.toNat - 1]? = some r.witness.toNat ∧ 1 ≤ r.infoBt.toNat
  | .allPassed => r.result = 1#32 ∧ r.holdsDecomposition ∧ r.infoBt = 3#2 ∧ r.witness = 0#32
  | .early => r.result = 1#32 ∧ r.holdsDecomposition ∧ (r.infoBt = 1#2 ∨ r.infoBt = 2#2) ∧ r.witness = 0#32

/-! What does not matter -/

/-- The witness engine's registers up to the current base agree. -/
def Engine.sameBase (c d : Engine) : Prop := c.ptN = d.ptN ∧ c.ptD = d.ptD ∧ c.ptR = d.ptR ∧ c.ptI = d.ptI

/-- Two engines agree on every working register that is read before it is written again, from their common state on
(10_state.md R50: "every one is written before it is read"). -/
def Engine.sameLive (c d : Engine) : Prop :=
  c.state = d.state ∧
  match c.state with
  | .idle => True
  | .mpStart => c.wA = d.wA ∧ c.wE = d.wE ∧ c.wM = d.wM
  | .mpLoop =>
    c.mpAcc = d.mpAcc ∧ c.mpB = d.mpB ∧ c.mpE = d.mpE ∧ c.mpM = d.mpM ∧ c.mpRet = d.mpRet ∧
    match c.mpRet with
    | .host => True
    | .ptPowret => c.sameBase d
    | .ptSqret => c.sameBase d ∧ c.ptJ = d.ptJ
  | .ptStart => c.ptN = d.ptN
  | .ptDecomp => c.ptN = d.ptN ∧ c.ptD = d.ptD ∧ c.ptR = d.ptR
  | .ptBase => c.sameBase d
  | .ptPowret => c.sameBase d ∧ c.mpRes = d.mpRes
  | .ptSq => c.sameBase d ∧ c.ptJ = d.ptJ ∧ c.ptM = d.ptM
  | .ptSqret => c.sameBase d ∧ c.ptJ = d.ptJ ∧ c.mpRes = d.mpRes

/-- Two states that differ at most in working registers nothing will read. -/
def State.sameVisible (s t : State) : Prop := s.regs = t.regs ∧ s.env = t.env ∧ s.engine.sameLive t.engine

/-- Two outcomes that are related: both next states, related by `rel`, or the same fault, or the same refusal. -/
def relatedBy (rel : State → State → Prop) (a b : Result) : Prop :=
  match a, b with
  | .next s, .next t => rel s t
  | .fault f, .fault g => f = g
  | .refused f, .refused g => f = g
  | _, _ => False

/-! Host traffic and runs -/

/-- A host operation that cannot reset the block and that the port can express: no `rst`, no mapped access. -/
def HostOp.isTraffic : HostOp → Bool
  | .idle => true
  | .access _ _ => true
  | .mapped _ => false
  | .wait _ _ _ => true
  | .waitIrq => true
  | .rst _ => false

/-- The word a cycle writes to the register at a word index, if it writes one (`rst = 0`). -/
def writePresented (addr : BitVec 4) (s : State) : Option Word :=
  match portIn s with
  | .next p =>
    match p.rst, p.access with
    | false, some x => if x.we = true ∧ x.addr = addr then some x.data else none
    | _, _ => none
  | _ => none

/-- The word a cycle writes to `CMD`, if it writes one. -/
def cmdPresented (s : State) : Option Word := writePresented RegName.cmd.index s

/-- The cycle has `rst = 1`. -/
def resetPresented (s : State) : Bool :=
  match portIn s with
  | .next p => p.rst
  | _ => false

/-- The engine alone, with no bus access between its steps, is idle after at most `bound` engine steps, in a state that
satisfies `P`. -/
def completesWithin (bound : Nat) (s : State) (P : State → Prop) : Prop :=
  ∃ k t, k ≤ bound ∧ engineRun k s = .next t ∧ t.engine.state = .idle ∧ P t

/-- Under the machine's own cycles, with whatever its environment does, the running command completes after at most `bound`
cycles: until then `BUSY` is 1 and the result registers are those of `s`, and at the completion `BUSY` is 0, `DONE` is 1 and
`P` holds. -/
def completesUnderTraffic (bound : Nat) (s : State) (P : State → Prop) : Prop :=
  ∃ k t, k ≤ bound ∧ Host.Core.run Sys2Proof.core k s = .next t ∧
    t.regs.busy = false ∧ t.regs.done = true ∧ P t ∧
    ∀ j, j < k → ∃ u, Host.Core.run Sys2Proof.core j s = .next u ∧ u.regs.busy = true ∧
      u.regs.result = s.regs.result ∧ u.regs.dreg = s.regs.dreg ∧ u.regs.rreg = s.regs.rreg ∧
      u.regs.infoExit = s.regs.infoExit ∧ u.regs.infoBt = s.regs.infoBt ∧ u.regs.witness = s.regs.witness

end Sys2Proof.Machine
end

