-- ==== Sys2Proof/Certificates/Slice0/Obligations.lean ====
section
/-! DEFINITION. The statements for the provers. Each docstring names the rule of spec/ it formalises. -/

open Sys2Proof Sys2Proof.Machine

/-! ## Encoding and decoding -/

/-- 30_encoding.md R81, R84: a few words, written out from the fields `OP` (3:0) and `RSV` (31:4), and what they stand for. -/
def Obligations.WrittenOutWordsDecode : Prop :=
  decodeWord (0b0000000000000000000000000000#28 ++ 0b0001#4) = .ok .modpow ∧
  decodeWord (0b0000000000000000000000000000#28 ++ 0b0010#4) = .ok .isprime ∧
  decodeWord (0b0000000000000000000000000000#28 ++ 0b0000#4) = .error .badOpcode ∧
  decodeWord (0b0000000000000000000000000000#28 ++ 0b0011#4) = .error .badOpcode ∧
  decodeWord (0b0000000000000000000000000000#28 ++ 0b1111#4) = .error .badOpcode ∧
  decodeWord (0b0000000000000000000000000001#28 ++ 0b0001#4) = .error .rsvdBits ∧
  decodeWord (0b1000000000000000000000000000#28 ++ 0b0001#4) = .error .rsvdBits ∧
  decodeWord (0b1111111111111111111111111111#28 ++ 0b1111#4) = .error .rsvdBits

/-- 30_encoding.md R82: a word decodes to a command exactly when it is that command's word, so exactly two of the `2^32` words
are commands; every command decodes back from its own word. -/
def Obligations.DecodeAcceptsExactlyEncodings : Prop :=
  (∀ (v : Word) (i : Instr), decodeWord v = .ok i ↔ v = encode i) ∧
  (∀ v : Word, (∃ i, decodeWord v = .ok i) ↔ v.toNat = 1 ∨ v.toNat = 2) ∧
  (∀ v : Word, (decodeWord v = .error .rsvdBits ↔ 16 ≤ v.toNat) ∧
    (decodeWord v = .error .badOpcode ↔ v.toNat < 16 ∧ v.toNat ≠ 1 ∧ v.toNat ≠ 2))

/-- 20_memory.md R64, R65: the byte lanes of a word are little-endian, put together they give the word back, the decoder reads
a word's lanes as it reads the word, and any other number of bytes is rejected by name. -/
def Obligations.ByteLanesRoundTrip : Prop :=
  (∀ v : Word, wordOfBytes (wordBytes v) = some v) ∧
  (∀ (v : Word) (k : Nat), k < 4 → (byteLane v k).toNat = v.toNat / 2 ^ (8 * k) % 256) ∧
  (∀ v : Word, ∀ i : Instr, decodeBytes (wordBytes v) = .ok i ↔ decodeWord v = .ok i) ∧
  (∀ bs : List Byte, bs.length ≠ 4 → decodeBytes bs = .error .notOneWord)

/-! ## Command dispatch -/

/-- 40_command_dispatch.md R100, R101; 30_encoding.md R84; 20_memory.md R61: a bus write to `CMD` is `Dispatch(v)` for every word, and
`Dispatch(v)` of every word, in every state, by its number: the checks in their order, and the outcome of each. -/
def Obligations.CommandWriteClassifiesEveryWord : Prop :=
  ∀ (v : Word) (s : State),
    busWrite 0x3#4 v s = commandWrite v s ∧
    (s.regs.busy = true → commandWrite v s = .next (overrun s)) ∧
    (s.regs.busy = false →
      (16 ≤ v.toNat → commandWrite v s = .next (reject .rsvdBits s)) ∧
      (v.toNat = 0 ∨ (3 ≤ v.toNat ∧ v.toNat ≤ 15) → commandWrite v s = .next (reject .badOpcode s)) ∧
      (v.toNat = 1 → s.regs.opm.toNat = 0 → commandWrite v s = .next (reject .modZero s)) ∧
      (v.toNat = 1 → 1 ≤ s.regs.opm.toNat → commandWrite v s = .next (acceptModpow s)) ∧
      (v.toNat = 2 → s.regs.opa.toNat < 2 → commandWrite v s = .next (reject .nLt2 s)) ∧
      (v.toNat = 2 → 2 ≤ s.regs.opa.toNat → commandWrite v s = .next (acceptIsprime s)))

/-- 40_command_dispatch.md R111, `Accept(MODPOW)`: MODPOW with `BUSY = 0` and `OPM ≥ 1` answers a next state: the working copies,
`MP_START`, the flags; and its frame: no other register changes. -/
def Obligations.ModpowIsAccepted : Prop :=
  ∀ s : State, s.regs.busy = false → 1 ≤ s.regs.opm.toNat →
    ∃ t, exec .modpow s = .next t ∧
      t.engine.wA = s.regs.opa ∧ t.engine.wE = s.regs.opb ∧ t.engine.wM = s.regs.opm ∧ t.engine.state = .mpStart ∧
      t.regs.busy = true ∧ t.regs.done = false ∧ t.regs.err = false ∧ t.regs.errcode = .none ∧
      t.engine = { s.engine with
        wA := s.regs.opa, wE := s.regs.opb, wM := s.regs.opm, state := .mpStart } ∧
      t.regs = { s.regs with busy := true, done := false, err := false, errcode := .none } ∧
      t.env = s.env ∧ t.irq = false

/-- 40_command_dispatch.md R111, `Accept(ISPRIME)`: ISPRIME with `BUSY = 0` and `OPA ≥ 2` answers a next state: the working copy,
`PT_START`, the flags; and its frame: no other register changes. -/
def Obligations.IsprimeIsAccepted : Prop :=
  ∀ s : State, s.regs.busy = false → 2 ≤ s.regs.opa.toNat →
    ∃ t, exec .isprime s = .next t ∧
      t.engine.ptN = s.regs.opa ∧ t.engine.state = .ptStart ∧
      t.regs.busy = true ∧ t.regs.done = false ∧ t.regs.err = false ∧ t.regs.errcode = .none ∧
      t.engine = { s.engine with ptN := s.regs.opa, state := .ptStart } ∧
      t.regs = { s.regs with busy := true, done := false, err := false, errcode := .none } ∧
      t.env = s.env ∧ t.irq = false

/-- 40_command_dispatch.md R108, R109, R110; 60_exceptions.md R190, R197: the two operand checks. A command whose operand is out of
range takes the block's one exception: `DONE`, `ERR` and the code are written and nothing else, whatever `OPB` holds. So does the
command write of its word. -/
def Obligations.BadOperandTakesRejection : Prop :=
  (∀ s : State, s.regs.busy = false → s.regs.opm.toNat = 0 →
    ∃ t, exec .modpow s = .next t ∧ commandWrite 0x00000001#32 s = .next t ∧ t.engine = s.engine ∧ t.env = s.env ∧ t.regs.errcode.code = 3#4 ∧
      t.regs = { s.regs with done := true, err := true, errcode := .modZero } ∧ t.irq = s.regs.ctrlIE) ∧
  (∀ s : State, s.regs.busy = false → s.regs.opa.toNat < 2 →
    ∃ t, exec .isprime s = .next t ∧ commandWrite 0x00000002#32 s = .next t ∧ t.engine = s.engine ∧ t.env = s.env ∧ t.regs.errcode.code = 4#4 ∧
      t.regs = { s.regs with done := true, err := true, errcode := .nLt2 } ∧ t.irq = s.regs.ctrlIE)

/-- 40_command_dispatch.md R103, R106, R107, R110: a word that is no command takes the rejection of its class; exactly `DONE`, `ERR`
and `ERRCODE` change. -/
def Obligations.BadWordTakesRejection : Prop :=
  ∀ (v : Word) (s : State), s.regs.busy = false →
    (v.toNat / 16 ≠ 0 → ∃ t, commandWrite v s = .next t ∧ t.engine = s.engine ∧ t.env = s.env ∧ t.regs.errcode.code = 2#4 ∧
      t.regs = { s.regs with done := true, err := true, errcode := .rsvdBits } ∧ t.irq = s.regs.ctrlIE) ∧
    (v.toNat / 16 = 0 → v.toNat % 16 ≠ 1 → v.toNat % 16 ≠ 2 →
      ∃ t, commandWrite v s = .next t ∧ t.engine = s.engine ∧ t.env = s.env ∧ t.regs.errcode.code = 1#4 ∧
        t.regs = { s.regs with done := true, err := true, errcode := .badOpcode } ∧ t.irq = s.regs.ctrlIE)

/-- 40_command_dispatch.md R104; 60_exceptions.md R194: with `BUSY = 1` every command word, and each command itself, sets `OVR` and
does nothing else. -/
def Obligations.CommandWhileBusyOnlySetsOvr : Prop :=
  ∀ s : State, s.regs.busy = true →
    (∀ v : Word, ∃ t, commandWrite v s = .next t ∧ t.regs = { s.regs with ovr := true } ∧ t.engine = s.engine ∧
      t.env = s.env ∧ t.irq = s.irq) ∧
    (∀ i : Instr, ∃ t, exec i s = .next t ∧ t.regs = { s.regs with ovr := true } ∧ t.engine = s.engine ∧ t.env = s.env)

/-! ## Steps and the port -/

/-- 20_memory.md R61, R71; 40_command_dispatch.md R100: when the cycle's access is a write to `CMD`, of any word, the step is
`Dispatch(v)` on the state the environment has moved past, followed by the engine's step where one ends in this cycle; and when the
word decodes to the command `i`, it is `exec i` there. The model's own choices in it: a write cycle has no value read (log 14, DESIGN
CHOICE); a step ends in a cycle as the list of turns says (log 1, DESIGN CHOICE), and only if the engine was running at the start of
the cycle (log 20, DEDUCED). -/
def Obligations.StepRunsDecodedCommand : Prop :=
  ∀ (s : State) (v : Word) (bind : Option String) (rest : List HostOp),
    s.env.host = .access { we := true, addr := RegName.cmd.index, data := v } bind :: rest →
    let s' := { s with env := { host := rest, turns := s.env.turns.tail, busRdata := none, vars := s.env.vars } }
    let after := fun u : State =>
      if s.env.turns.headD true = true ∧ s.engine.state ≠ .idle then engineStep u else .next u
    step s = andThen (commandWrite v s') after ∧
      ∀ i : Instr, decodeWord v = .ok i → step s = andThen (exec i s') after

/-- The machine's fetch hook runs exactly the word it is given, on the registers of the state it is given (log 3). -/
def Obligations.FetchWordRunsExactly : Prop :=
  ∀ (s : State) (w : Nat) (i : Instr), decodeTableWord 32 w = some i →
    step (s.withFetchWord 32 w) = exec i { s with env := { s.env with busRdata := none } }

/-- 20_memory.md R71; 70_reset_and_hazards.md R238, R240: in the cycle in which the running command completes, the bus access comes
first: a command write gives `OVR`, and a W1C write of `DONE` does not lose the completion. The completion is the same one. -/
def Obligations.CompletionCycleOrdersAccessFirst : Prop :=
  ∀ (s : State) (n : Engine) (c : Completion) (x : Xact) (bind : Option String) (rest : List HostOp),
    s.regs.busy = true → engineTurn s = true → coreStep s.engine = .next (n, some c) →
    s.env.host = .access x bind :: rest →
    ∃ t, step s = .next t ∧ t.engine = n ∧ t.regs.busy = false ∧ t.regs.done = true ∧ t.regs.result = c.res ∧
      t.regs.dreg = c.d ∧ t.regs.rreg = c.r ∧ t.regs.witness = c.wit ∧ t.regs.infoExit = c.exit ∧ t.regs.infoBt = c.bt ∧
      t.regs.err = (s.regs.err && !(x.we && x.addr == RegName.status.index && x.data.getLsbD 2)) ∧
      t.regs.ovr = (if x.we = true ∧ x.addr = RegName.cmd.index then true
        else s.regs.ovr && !(x.we && x.addr == RegName.status.index && x.data.getLsbD 3))

/-- 40_command_dispatch.md R111, `Accept(op)`: the whole cycle of an accepting write. "Acceptance takes no engine step": the machine ends
the cycle with the working copies taken, in the command's first engine state, whatever the pending turns say. -/
def Obligations.AcceptingCycleTakesNoEngineStep : Prop :=
  ∀ (s : State) (bind : Option String) (rest : List HostOp) (i : Instr),
    s.Inv → s.regs.busy = false → (i = .modpow → 1 ≤ s.regs.opm.toNat) → (i = .isprime → 2 ≤ s.regs.opa.toNat) →
    s.env.host = .access { we := true, addr := RegName.cmd.index, data := encode i } bind :: rest →
    ∃ t, step s = .next t ∧ t.irq = false ∧ t.env.host = rest ∧
      t.regs = { s.regs with busy := true, done := false, err := false, errcode := .none } ∧
      (i = .modpow → t.engine = { s.engine with
        wA := s.regs.opa, wE := s.regs.opb, wM := s.regs.opm, state := .mpStart }) ∧
      (i = .isprime → t.engine = { s.engine with ptN := s.regs.opa, state := .ptStart })

/-- 20_memory.md R63, R64, R65: a mapped access that is narrow, wide or misaligned is refused by name, an aligned one of one word
outside the window faults (this model's choice, log 9), and one inside it is the port access of its register, with the bytes
little-endian. That a narrow or wide access is refused for its width also where it is misaligned is this model's choice (log 8). What a
step does with a mapped access is `MappedStepsAreAccesses`. -/
def Obligations.MappedAccessesTranslate : Prop :=
  (∀ a w : Nat, w ≠ 4 → mapAccess (.load a w) = .refused .badWidth) ∧
  (∀ a : Nat, a % 4 ≠ 0 → mapAccess (.load a 4) = .refused .misaligned) ∧
  (∀ (a : Nat) (bs : List Byte), bs.length ≠ 4 → mapAccess (.store a bs) = .refused .badWidth) ∧
  (∀ (a : Nat) (bs : List Byte), bs.length = 4 → a % 4 ≠ 0 → mapAccess (.store a bs) = .refused .misaligned) ∧
  (∀ a : Nat, a % 4 = 0 → (a < Config.baseAddr ∨ Config.baseAddr + 64 ≤ a) →
    mapAccess (.load a 4) = .fault .outsideWindow) ∧
  (∀ (a : Nat) (bs : List Byte), bs.length = 4 → a % 4 = 0 → (a < Config.baseAddr ∨ Config.baseAddr + 64 ≤ a) →
    mapAccess (.store a bs) = .fault .outsideWindow) ∧
  (∀ i : BitVec 4, mapAccess (.load (Config.baseAddr + 4 * i.toNat) 4) = .next { we := false, addr := i, data := 0#32 }) ∧
  (∀ (i : BitVec 4) (v : Word), mapAccess (.store (Config.baseAddr + 4 * i.toNat) (wordBytes v)) =
    .next { we := true, addr := i, data := v })

/-! ## The register window -/

/-- 10_state.md R24 to R26, R32 to R40; 20_memory.md R62, R67; 60_exceptions.md R190: the value a read returns at each of the sixteen
words, with the number `INFO.EXIT` (R39) and `STATUS.ERRCODE` (R190) read as for each name. -/
def Obligations.ReadsReturnEachRegister : Prop :=
  ∀ s : State,
    busRead 0x0#4 s = 0x4D520001#32 ∧
    (busRead 0x1#4 s).toNat = s.regs.ctrlIE.toNat ∧
    (busRead 0x2#4 s).toNat = s.regs.busy.toNat + 2 * s.regs.done.toNat + 4 * s.regs.err.toNat + 8 * s.regs.ovr.toNat +
      16 * s.regs.errcode.code.toNat ∧
    busRead 0x3#4 s = 0#32 ∧ busRead 0x4#4 s = s.regs.opa ∧ busRead 0x5#4 s = s.regs.opb ∧ busRead 0x6#4 s = s.regs.opm ∧
    busRead 0x7#4 s = s.regs.result ∧ busRead 0x8#4 s = s.regs.dreg ∧ (busRead 0x9#4 s).toNat = s.regs.rreg.toNat ∧
    (busRead 0xA#4 s).toNat = s.regs.infoExit.code.toNat + 16 * s.regs.infoBt.toNat ∧
    busRead 0xB#4 s = s.regs.witness ∧
    (∀ a : BitVec 4, 0xC ≤ a.toNat → busRead a s = 0#32) ∧
    (busRead 0xA#4 s).toNat % 8 = (match s.regs.infoExit with
      | .none => 0 | .fastSmall => 1 | .fastEven => 2 | .witness => 3 | .allPassed => 4 | .early => 5) ∧
    (busRead 0x2#4 s).toNat / 16 % 16 = (match s.regs.errcode with
      | .none => 0 | .badOpcode => 1 | .rsvdBits => 2 | .modZero => 3 | .nLt2 => 4)

/-- 20_memory.md R62, R66; 30_encoding.md R86: a read at any word, with or without a name, changes no register and carries the value the
word had at the start of the cycle, also in a cycle in which the engine steps; a name takes that value, and no other name changes. -/
def Obligations.ReadsHaveNoSideEffect : Prop :=
  ∀ (s : State) (a : BitVec 4) (d : Word) (bind : Option String) (rest : List HostOp),
    s.env.host = .access { we := false, addr := a, data := d } bind :: rest →
    (engineTurn s = false → ∃ t, step s = .next t ∧ t.regs = s.regs ∧ t.engine = s.engine) ∧
    (∀ t, step s = .next t →
      t.env.host = rest ∧ t.env.busRdata = some (busRead a s) ∧
      (bind = none → t.env.vars = s.env.vars) ∧
      (∀ name, bind = some name → t.var name = some (busRead a s) ∧ ∀ other, other ≠ name → t.var other = s.var other) ∧
      ∃ u, step { s with env := { s.env with host := .idle :: rest } } = .next u ∧ u.regs = t.regs ∧ u.engine = t.engine)

/-- 10_state.md R26; 30_encoding.md R89: a write of `STATUS` clears exactly the flags whose bits are 1, and nothing else. -/
def Obligations.StatusWriteClearsByOnes : Prop :=
  ∀ (v : Word) (s : State), ∃ t, busWrite 0x2#4 v s = .next t ∧ t.engine = s.engine ∧ t.env = s.env ∧
    t.regs.done = (if v.toNat / 2 % 2 = 1 then false else s.regs.done) ∧
    t.regs.err = (if v.toNat / 4 % 2 = 1 then false else s.regs.err) ∧
    t.regs.errcode = (if v.toNat / 4 % 2 = 1 then .none else s.regs.errcode) ∧
    t.regs.ovr = (if v.toNat / 8 % 2 = 1 then false else s.regs.ovr) ∧
    t.regs = { s.regs with
      done := t.regs.done, err := t.regs.err, errcode := t.regs.errcode, ovr := t.regs.ovr }

/-- 10_state.md R25, R33, R34, R35: a write of `CTRL` sets `IE` to bit 0, a write of an operand register replaces the whole word, in any
state, and changes nothing else. -/
def Obligations.ControlAndOperandWrites : Prop :=
  ∀ (v : Word) (s : State),
    busWrite 0x1#4 v s = .next { s with regs := { s.regs with ctrlIE := decide (v.toNat % 2 = 1) } } ∧
    busWrite 0x4#4 v s = .next { s with regs := { s.regs with opa := v } } ∧
    busWrite 0x5#4 v s = .next { s with regs := { s.regs with opb := v } } ∧
    busWrite 0x6#4 v s = .next { s with regs := { s.regs with opm := v } }

/-- 10_state.md R23; 20_memory.md R61, R67: a write to a read-only or a reserved word is ignored, with no error; a reserved word reads
0. -/
def Obligations.ReadOnlyAndReservedWritesIgnored : Prop :=
  ∀ (a : BitVec 4) (v : Word) (s : State),
    (a.toNat = 0 ∨ 7 ≤ a.toNat → busWrite a v s = .next s) ∧ (12 ≤ a.toNat → busRead a s = 0#32)

/-- 10_state.md R23, R25, R33 to R35: what a written word reads as afterwards, at every word but `STATUS` and `CMD`. -/
def Obligations.WriteThenReadBack : Prop :=
  ∀ (a : BitVec 4) (v : Word) (s t : State), busWrite a v s = .next t →
    (a.toNat = 4 ∨ a.toNat = 5 ∨ a.toNat = 6 → busRead a t = v) ∧
    (a.toNat = 1 → (busRead a t).toNat = v.toNat % 2) ∧
    (a.toNat = 0 ∨ 7 ≤ a.toNat → busRead a t = busRead a s) ∧
    (∀ b : BitVec 4, b ≠ a → a.toNat ≠ 3 → busRead b t = busRead b s)

/-! ## Reset and the interrupt -/

/-- 10_state.md R50; 70_reset_and_hazards.md R233: what the host sees after reset, and the engine's state; and that the machine after
reset, with any values in the working registers, is the same machine up to registers nothing will read. -/
def Obligations.ResetValues : Prop :=
  State.reset.engine.state = .idle ∧ State.reset.irq = false ∧ busRead 0x0#4 State.reset = 0x4D520001#32 ∧
    (∀ a : BitVec 4, a ≠ 0x0#4 → busRead a State.reset = 0#32) ∧
    ∀ c : Engine, c.state = .idle → State.reset.sameVisible { State.reset with engine := c }

/-- 70_reset_and_hazards.md R230, R231, R232: an edge with `rst = 1` takes the reset values whatever the block was doing; a running
command is abandoned; the access presented in that cycle has no effect and a read returns 0. The model's own choices in it: that it
steps through a reset cycle with an access in it, where R232 speaks of no host step (log 7), and that no value is read in a cycle
that is no read (log 14, DESIGN CHOICE). -/
def Obligations.ResetEdgeTakesResetValues : Prop :=
  ∀ (s : State) (x : Option Xact) (rest : List HostOp), s.env.host = .rst x :: rest →
    ∃ t, step s = .next t ∧ t.engine.state = .idle ∧ t.irq = false ∧ t.env.host = rest ∧
      busRead 0x0#4 t = 0x4D520001#32 ∧ (∀ a : BitVec 4, a ≠ 0x0#4 → busRead a t = 0#32) ∧
      t.env.busRdata = (match x with | some y => if y.we then none else some 0#32 | none => none)

/-- 70_reset_and_hazards.md R233: "The block accepts a command on its first bus cycle after reset." (95_test_vectors.md H7): from an
edge with `rst = 1`, an operand write and the command write in the next two cycles are enough. An access in the reset cycle itself is
dropped (log 7). -/
def Obligations.FirstCommandAfterReset : Prop :=
  ∀ (s : State) (x : Option Xact) (n : Word) (rest : List HostOp), 2 ≤ n.toNat →
    s.env.host = .rst x :: wrOp .opa n.toNat :: wrOp .cmd 2 :: rest →
    ∃ t, Host.Core.run Sys2Proof.core 3 s = .next t ∧ t.regs.busy = true ∧ t.engine.state = .ptStart ∧ t.engine.ptN = n ∧
      t.env.host = rest

/-- 60_exceptions.md R200, R201, R202: `irq` is `IE & DONE`. In a cycle without reset it rises only where `IE` is written 1 with
`DONE = 1`, or where, with `IE = 1`, a command write is rejected or the running command completes; it falls only where `IE` is written
0, which leaves `DONE`, where `DONE` is cleared by a W1C write, or where a command is accepted. -/
def Obligations.IrqChangesOnlyForItsCauses : Prop :=
  ∀ s t : State, s.Inv → step s = .next t → resetPresented s = false →
    (t.irq = true ↔ t.regs.ctrlIE = true ∧ t.regs.done = true) ∧
    (s.irq = false → t.irq = true →
      (s.regs.done = true ∧ ∃ v, writePresented RegName.ctrl.index s = some v ∧ v.toNat % 2 = 1) ∨
      (t.regs.ctrlIE = true ∧ s.regs.busy = false ∧ t.regs.err = true ∧ t.regs.errcode ≠ .none ∧
        ∃ v, cmdPresented s = some v) ∨
      (t.regs.ctrlIE = true ∧ s.regs.busy = true ∧ t.regs.busy = false)) ∧
    (s.irq = true → t.irq = false →
      (t.regs.done = true ∧ ∃ v, writePresented RegName.ctrl.index s = some v ∧ v.toNat % 2 = 0) ∨
      (∃ v, writePresented RegName.status.index s = some v ∧ v.toNat / 2 % 2 = 1) ∨
      (t.regs.busy = true ∧ ∃ v, cmdPresented s = some v))

/-! ## The exponentiator -/

/-- 41_modpow.md R122: for `m ≥ 1` the modular product is the exact product's remainder, below `m`, for every pair of 64-bit values. -/
def Obligations.ModMulIsExact : Prop :=
  ∀ (x y : DWord) (m : Word), 1 ≤ m.toNat →
    (modMul x y m).toNat = x.toNat * y.toNat % m.toNat ∧ (modMul x y m).toNat < m.toNat

/-- 41_modpow.md R123, R124, R125: the first engine step of a MODPOW. With exponent 0 the command completes in this step with result 1,
whatever the modulus; otherwise the loop is set up. -/
def Obligations.ModpowStartStep : Prop :=
  ∀ s : State, s.engine.state = .mpStart →
    (s.engine.wE.toNat = 0 → ∃ t, engineStep s = .next t ∧ t.engine = { s.engine with state := .idle, mpRes := 1#32 } ∧
      t.regs = { s.regs with
        result := 1#32, dreg := 0#32, rreg := 0#5, witness := 0#32, infoExit := .none, infoBt := 0#2, done := true,
        busy := false } ∧ t.env = s.env) ∧
    (1 ≤ s.engine.wE.toNat → ∃ t, engineStep s = .next t ∧ t.regs = s.regs ∧ t.env = s.env ∧
      t.engine.mpB.toNat = s.engine.wA.toNat ∧
      t.engine = { s.engine with
        mpAcc := 1#64, mpB := t.engine.mpB, mpE := s.engine.wE, mpM := s.engine.wM, mpRet := .host, state := .mpLoop })

/-- 41_modpow.md R126, R245: one iteration of the loop, with the values as exact numbers: the fold uses the old base, then the base is
squared and the exponent halved; nothing else changes. -/
def Obligations.LoopStepFoldsAndSquares : Prop :=
  ∀ s : State, s.engine.state = .mpLoop → 1 ≤ s.engine.mpM.toNat → 1 ≤ s.engine.mpE.toNat →
    ∃ t, engineStep s = .next t ∧ t.regs = s.regs ∧ t.env = s.env ∧
      t.engine.mpAcc.toNat = (if s.engine.mpE.toNat % 2 = 1
        then s.engine.mpAcc.toNat * s.engine.mpB.toNat % s.engine.mpM.toNat else s.engine.mpAcc.toNat) ∧
      t.engine.mpB.toNat = s.engine.mpB.toNat * s.engine.mpB.toNat % s.engine.mpM.toNat ∧
      t.engine.mpE.toNat = s.engine.mpE.toNat / 2 ∧
      t.engine = { s.engine with mpAcc := t.engine.mpAcc, mpB := t.engine.mpB, mpE := t.engine.mpE }

/-- 41_modpow.md R126, R127, R128: the loop's return: the accumulator mod the modulus goes to `MP_RES`; for the host it completes MODPOW,
for the witness engine it enters the return state. -/
def Obligations.LoopReturnGoesToCaller : Prop :=
  ∀ s : State, s.engine.state = .mpLoop → 1 ≤ s.engine.mpM.toNat → s.engine.mpE.toNat = 0 →
    ∃ t, engineStep s = .next t ∧ t.env = s.env ∧ t.engine.mpRes.toNat = s.engine.mpAcc.toNat % s.engine.mpM.toNat ∧
      t.engine = { s.engine with mpRes := t.engine.mpRes, state := t.engine.state } ∧
      (s.engine.mpRet = .host → t.engine.state = .idle ∧ t.regs = { s.regs with
        result := t.engine.mpRes, dreg := 0#32, rreg := 0#5, witness := 0#32, infoExit := .none, infoBt := 0#2, done := true,
        busy := false }) ∧
      (s.engine.mpRet = .ptPowret → t.engine.state = .ptPowret ∧ t.regs = s.regs) ∧
      (s.engine.mpRet = .ptSqret → t.engine.state = .ptSqret ∧ t.regs = s.regs)

/-! ## The witness engine -/

/-- 42_isprime.md R161, R167: the fast paths, and the start of the decomposition. -/
def Obligations.FastPathsDecideSmallAndEven : Prop :=
  ∀ s : State, s.engine.state = .ptStart → 2 ≤ s.engine.ptN.toNat →
    ∃ t, engineStep s = .next t ∧ t.env = s.env ∧
      (s.engine.ptN.toNat ≤ 3 → t.engine = { s.engine with state := .idle } ∧ t.regs = { s.regs with
        result := 1#32, infoExit := .fastSmall, infoBt := 0#2, witness := 0#32, dreg := 0#32, rreg := 0#5, done := true,
        busy := false }) ∧
      (4 ≤ s.engine.ptN.toNat → s.engine.ptN.toNat % 2 = 0 →
        t.engine = { s.engine with state := .idle } ∧ t.regs = { s.regs with
          result := 0#32, infoExit := .fastEven, infoBt := 0#2, witness := 0#32, dreg := 0#32, rreg := 0#5, done := true,
          busy := false }) ∧
      (4 ≤ s.engine.ptN.toNat → s.engine.ptN.toNat % 2 = 1 →
        t.regs = s.regs ∧ t.engine.ptD.toNat = s.engine.ptN.toNat - 1 ∧
          t.engine = { s.engine with ptD := t.engine.ptD, ptR := 0#5, state := .ptDecomp })

/-- 42_isprime.md R162: one halving keeps `d · 2^r`, or, with `d` odd, the bases begin, with `1 ≤ r ≤ 31`. -/
def Obligations.DecompositionHalves : Prop :=
  ∀ s : State, s.Inv → s.engine.state = .ptDecomp →
    ∃ t, engineStep s = .next t ∧ t.regs = s.regs ∧ t.env = s.env ∧
      (s.engine.ptD.toNat % 2 = 0 →
        t.engine.ptD.toNat = s.engine.ptD.toNat / 2 ∧ t.engine.ptR.toNat = s.engine.ptR.toNat + 1 ∧
          t.engine.ptD.toNat * 2 ^ t.engine.ptR.toNat = s.engine.ptD.toNat * 2 ^ s.engine.ptR.toNat ∧
          t.engine = { s.engine with ptD := t.engine.ptD, ptR := t.engine.ptR }) ∧
      (s.engine.ptD.toNat % 2 = 1 → t.engine = { s.engine with ptI := 0#2, state := .ptBase } ∧
        1 ≤ t.engine.ptR.toNat ∧ t.engine.ptR.toNat ≤ 31)

/-- 42_isprime.md R163, R167: the base loop: every base done, early termination at a base `≥ n`, or the call `modpow(b, d, n)`. -/
def Obligations.BaseStepTerminatesOrCalls : Prop :=
  ∀ s : State, s.engine.state = .ptBase → 1 ≤ s.engine.ptD.toNat →
    ∃ t, engineStep s = .next t ∧ t.env = s.env ∧
      (s.engine.ptI.toNat = 3 → t.engine = { s.engine with state := .idle } ∧ t.regs = { s.regs with
        result := 1#32, infoExit := .allPassed, infoBt := 3#2, witness := 0#32, dreg := s.engine.ptD, rreg := s.engine.ptR,
        done := true, busy := false }) ∧
      (∀ b, baseList[s.engine.ptI.toNat]? = some b → s.engine.ptN.toNat ≤ b →
        t.engine = { s.engine with state := .idle } ∧ t.regs = { s.regs with
          result := 1#32, infoExit := .early, infoBt := s.engine.ptI, witness := 0#32, dreg := s.engine.ptD,
          rreg := s.engine.ptR, done := true, busy := false }) ∧
      (∀ b, baseList[s.engine.ptI.toNat]? = some b → b < s.engine.ptN.toNat →
        t.regs = s.regs ∧ t.engine.mpB.toNat = b ∧ t.engine = { s.engine with
          mpAcc := 1#64, mpB := t.engine.mpB, mpE := s.engine.ptD, mpM := s.engine.ptN, mpRet := .ptPowret, state := .mpLoop })

/-- 42_isprime.md R164, R166: the tests of the returned value: `m == 1` counts only for the first test; `m == n - 1` ends the base. -/
def Obligations.ReturnTestsPassOrContinue : Prop :=
  ∀ s : State, s.Inv →
    (s.engine.state = .ptPowret → ∃ t, engineStep s = .next t ∧ t.regs = s.regs ∧ t.env = s.env ∧
      t.engine.ptM = s.engine.mpRes ∧
      (if s.engine.mpRes.toNat = 1 ∨ s.engine.mpRes.toNat = s.engine.ptN.toNat - 1
        then t.engine.ptI.toNat = s.engine.ptI.toNat + 1 ∧
          t.engine = { s.engine with ptM := s.engine.mpRes, ptI := t.engine.ptI, state := .ptBase }
        else t.engine = { s.engine with ptM := s.engine.mpRes, ptJ := 0#5, state := .ptSq })) ∧
    (s.engine.state = .ptSqret → ∃ t, engineStep s = .next t ∧ t.regs = s.regs ∧ t.env = s.env ∧
      t.engine.ptM = s.engine.mpRes ∧ t.engine.ptJ.toNat = s.engine.ptJ.toNat + 1 ∧
      (if s.engine.mpRes.toNat = s.engine.ptN.toNat - 1
        then t.engine.ptI.toNat = s.engine.ptI.toNat + 1 ∧
          t.engine = { s.engine with
            ptM := s.engine.mpRes, ptJ := t.engine.ptJ, ptI := t.engine.ptI, state := .ptBase }
        else t.engine = { s.engine with ptM := s.engine.mpRes, ptJ := t.engine.ptJ, state := .ptSq }))

/-- 42_isprime.md R165, R167: after `r - 1` squarings the base is a witness and the verdict is composite; before that the next squaring
`modpow(m, 2, n)` is called. -/
def Obligations.SquaringStepJudgesOrCalls : Prop :=
  ∀ s : State, s.Inv → s.engine.state = .ptSq →
    ∃ t, engineStep s = .next t ∧ t.env = s.env ∧
      (s.engine.ptJ.toNat = s.engine.ptR.toNat - 1 → t.engine = { s.engine with state := .idle } ∧
        baseList[s.engine.ptI.toNat]? = some t.regs.witness.toNat ∧
        t.regs.infoBt.toNat = s.engine.ptI.toNat + 1 ∧ t.regs = { s.regs with
          result := 0#32, infoExit := .witness, infoBt := t.regs.infoBt, witness := t.regs.witness, dreg := s.engine.ptD,
          rreg := s.engine.ptR, done := true, busy := false }) ∧
      (s.engine.ptJ.toNat ≠ s.engine.ptR.toNat - 1 → t.regs = s.regs ∧
        t.engine.mpB.toNat = s.engine.ptM.toNat ∧ t.engine = { s.engine with
          mpAcc := 1#64, mpB := t.engine.mpB, mpE := 2#32, mpM := s.engine.ptN, mpRet := .ptSqret, state := .mpLoop })

/-! ## Whole-machine rules -/

/-- 10_state.md R27; 40_command_dispatch.md R112: "Only a `CMD` write can start the engine, and only acceptance does", and `BUSY` is
cleared only by completion and by reset. -/
def Obligations.BusyChangesOnlyForItsCauses : Prop :=
  ∀ s t : State, s.Inv → step s = .next t →
    (s.regs.busy = false → t.regs.busy = true → ∃ v, cmdPresented s = some v ∧
      ((v.toNat = 1 ∧ 1 ≤ s.regs.opm.toNat ∧ t.engine.state = .mpStart) ∨
        (v.toNat = 2 ∧ 2 ≤ s.regs.opa.toNat ∧ t.engine.state = .ptStart))) ∧
    (s.regs.busy = true → t.regs.busy = false →
      (resetPresented s = true ∨ (engineTurn s = true ∧ t.regs.done = true ∧ t.engine.state = .idle)))

/-- 10_state.md R28, R29, R31: `DONE` is set only by completion and rejection; `ERR` is set and `ERRCODE` changes to an error only by a
rejection; they are cleared only by acceptance, their W1C bit and reset, and `ERRCODE` only together with `ERR`. -/
def Obligations.DoneAndErrorChangeOnlyForTheirCauses : Prop :=
  ∀ s t : State, s.Inv → step s = .next t →
    (s.regs.done = false → t.regs.done = true →
      (s.regs.busy = true ∧ t.regs.busy = false) ∨ (s.regs.busy = false ∧ t.regs.err = true ∧ ∃ v, cmdPresented s = some v)) ∧
    (s.regs.done = true → t.regs.done = false →
      resetPresented s = true ∨ (t.regs.busy = true ∧ ∃ v, cmdPresented s = some v) ∨
        ∃ v, writePresented RegName.status.index s = some v ∧ v.toNat / 2 % 2 = 1) ∧
    (s.regs.err = false → t.regs.err = true →
      s.regs.busy = false ∧ t.regs.done = true ∧ t.regs.errcode ≠ .none ∧ ∃ v, cmdPresented s = some v) ∧
    (s.regs.errcode ≠ t.regs.errcode → t.regs.errcode ≠ .none →
      s.regs.busy = false ∧ t.regs.done = true ∧ t.regs.err = true ∧ ∃ v, cmdPresented s = some v) ∧
    (s.regs.errcode ≠ .none → t.regs.errcode = .none → s.regs.err = true ∧ t.regs.err = false) ∧
    (s.regs.err = true → t.regs.err = false → t.regs.errcode = .none ∧
      (resetPresented s = true ∨ (t.regs.busy = true ∧ ∃ v, cmdPresented s = some v) ∨
        ∃ v, writePresented RegName.status.index s = some v ∧ v.toNat / 4 % 2 = 1))

/-- 10_state.md R30: `OVR` is set only by a command write while `BUSY = 1`, and is sticky: only its W1C bit and reset clear it. -/
def Obligations.OverrunFlagIsSticky : Prop :=
  ∀ s t : State, step s = .next t →
    (s.regs.ovr = false → t.regs.ovr = true → s.regs.busy = true ∧ ∃ v, cmdPresented s = some v) ∧
    (s.regs.busy = true → (∃ v, cmdPresented s = some v) → t.regs.ovr = true) ∧
    (s.regs.ovr = true → t.regs.ovr = false →
      resetPresented s = true ∨ ∃ v, writePresented RegName.status.index s = some v ∧ v.toNat / 8 % 2 = 1)

/-- 10_state.md R36 to R40; 70_reset_and_hazards.md R236, R237: the result registers change only at completion and reset, never at
acceptance, at a rejection or by a host write. -/
def Obligations.ResultsChangeOnlyAtCompletion : Prop :=
  ∀ s t : State, s.Inv → step s = .next t → resetPresented s = false →
    ¬ (s.regs.busy = true ∧ t.regs.busy = false) →
    t.regs.result = s.regs.result ∧ t.regs.dreg = s.regs.dreg ∧ t.regs.rreg = s.regs.rreg ∧
      t.regs.infoExit = s.regs.infoExit ∧ t.regs.infoBt = s.regs.infoBt ∧ t.regs.witness = s.regs.witness

/-- 10_state.md R25, R33 to R35: outside reset, `IE` and the operand registers hold the last word written to them, in every state and
whatever the engine does. -/
def Obligations.HostRegistersChangeOnlyByTheirWrites : Prop :=
  ∀ s t : State, step s = .next t → resetPresented s = false →
    t.regs.opa = (writePresented RegName.opa.index s).getD s.regs.opa ∧
    t.regs.opb = (writePresented RegName.opb.index s).getD s.regs.opb ∧
    t.regs.opm = (writePresented RegName.opm.index s).getD s.regs.opm ∧
    t.regs.ctrlIE = ((writePresented RegName.ctrl.index s).map (fun v => decide (v.toNat % 2 = 1))).getD s.regs.ctrlIE

/-- 10_state.md R44; 40_command_dispatch.md R113; 70_reset_and_hazards.md R239: while a command runs, two machines with the same engine
and the same pending turns keep the same engine in a cycle, whatever the two hosts do short of reset and whatever their registers
hold; and if one completes, both do, with the same results. -/
def Obligations.RunningCommandIgnoresTheHost : Prop :=
  ∀ s s' t t' : State, s.Inv → s'.Inv → s.regs.busy = true → s.engine = s'.engine → s.env.turns = s'.env.turns →
    resetPresented s = false → resetPresented s' = false → step s = .next t → step s' = .next t' →
    t.engine = t'.engine ∧ t.env.turns = t'.env.turns ∧ t.regs.busy = t'.regs.busy ∧
      (t.regs.busy = false → t.regs.result = t'.regs.result ∧ t.regs.dreg = t'.regs.dreg ∧ t.regs.rreg = t'.regs.rreg ∧
        t.regs.infoExit = t'.regs.infoExit ∧ t.regs.infoBt = t'.regs.infoBt ∧ t.regs.witness = t'.regs.witness)

/-! ## Invariants -/

/-- The invariant and the register consistency hold at reset (10_state.md R50, R51). -/
def Obligations.InvariantAtReset : Prop :=
  State.reset.Inv ∧ State.reset.regs.consistent ∧ State.reset.edgeFacts

/-- 10_state.md R27, R31, R51: every step from a state of the invariant, whatever its environment does, ends in a state of the
invariant, and there the eight lines of R51 hold. -/
def Obligations.EveryStepKeepsInvariant : Prop :=
  ∀ s t : State, s.Inv → step s = .next t → t.Inv ∧ t.edgeFacts

/-- 10_state.md R36 to R40; 42_isprime.md R161, R163, R165, R167: the result registers always agree with `INFO.EXIT`: the verdict, the
witness base, the count of bases and the decomposition fit together. -/
def Obligations.EveryStepKeepsResultsConsistent : Prop :=
  ∀ s t : State, s.Inv → s.regs.consistent → step s = .next t → t.regs.consistent

/-- 41_modpow.md R132; 60_exceptions.md R195, R209: in a state of the invariant the engine never stops: no remainder by 0, no base
beyond the table; so a step stops only for a mapped access the port cannot express. -/
def Obligations.NoStopOutsideMappedAccesses : Prop :=
  ∀ s : State, s.Inv →
    (∃ t, engineStep s = .next t) ∧
    ((∀ r rest, s.env.host ≠ .mapped r :: rest) → ∃ t, step s = .next t) ∧
    (∀ r rest x, s.env.host = .mapped r :: rest → mapAccess r = .next x → ∃ t, step s = .next t)

/-- 70_reset_and_hazards.md R244; 60_exceptions.md R195: from every state of the invariant with a command running, the engine reaches
IDLE after finitely many engine steps, with `DONE = 1` and `ERR` unchanged. -/
def Obligations.EveryRunningCommandCompletes : Prop :=
  ∀ s : State, s.Inv → s.regs.busy = true →
    ∃ k t, engineRun k s = .next t ∧ t.engine.state = .idle ∧ t.regs.busy = false ∧ t.regs.done = true ∧
      t.regs.err = s.regs.err ∧ t.regs.errcode = s.regs.errcode ∧ t.regs.ovr = s.regs.ovr

/-- 10_state.md R50 ("Not observable: every one is written before it is read"): two machines that differ only in working registers that
nothing will read stay so in every step: the registers the host sees, the environment and the outcome are the same. So no statement
about what the host sees rests on the reset values this model names for the working registers (log 4). -/
def Obligations.DeadWorkingRegistersAreUnobservable : Prop :=
  ∀ s t : State, s.sameVisible t → relatedBy State.sameVisible (step s) (step t)

/-! ## What the commands compute -/

/-- 41_modpow.md R120, R129; 70_reset_and_hazards.md R243: MODPOW is accepted and, under any bus traffic and any engine stalls, completes
after at most 34 engine steps' worth of cycles beyond the stalls (log 1: a finite list of them; 34 is an inference of the spec) with `RESULT = base^exponent mod modulus` (1 for exponent 0), and the
diagnostic registers 0. -/
def Obligations.ModpowComputesPower : Prop :=
  ∀ s : State, s.regs.busy = false → 1 ≤ s.regs.opm.toNat → s.env.host.all HostOp.isTraffic = true →
    ∃ t, exec .modpow s = .next t ∧
      completesUnderTraffic (s.env.turns.length + 34) t (fun u =>
        u.regs.result.toNat = modpowSpec s.regs.opa.toNat s.regs.opb.toNat s.regs.opm.toNat ∧
        u.regs.dreg = 0#32 ∧ u.regs.rreg = 0#5 ∧ u.regs.witness = 0#32 ∧ u.regs.infoExit = .none ∧ u.regs.infoBt = 0#2)

/-- 41_modpow.md R131 (the counts are not normative, they are this machine's): the exact number of engine steps of a MODPOW, and that it
is not complete before. -/
def Obligations.ModpowEngineStepCount : Prop :=
  ∀ s t : State, s.regs.busy = false → 1 ≤ s.regs.opm.toNat → exec .modpow s = .next t →
    let k := if s.regs.opb.toNat = 0 then 1 else Nat.log2 s.regs.opb.toNat + 3
    (∃ u, engineRun k t = .next u ∧ u.engine.state = .idle ∧ u.regs.busy = false) ∧
      ∀ j, j < k → ∃ u, engineRun j t = .next u ∧ u.regs.busy = true

/-- 95_test_vectors.md section 1.2 (Fermat's little theorem): for a prime modulus `p` and a base that `p` does not divide, MODPOW with
exponent `p - 1` gives 1. -/
def Obligations.ModpowFermat : Prop :=
  ∀ s t : State, s.regs.busy = false → Nat.Prime s.regs.opm.toNat → ¬ s.regs.opm.toNat ∣ s.regs.opa.toNat →
    s.regs.opb.toNat = s.regs.opm.toNat - 1 → exec .modpow s = .next t →
    completesWithin 34 t (fun u => u.regs.result.toNat = 1)

/-- 42_isprime.md R160, R168; 70_reset_and_hazards.md R243: ISPRIME is accepted and, under any bus traffic and any engine stalls,
completes after at most 496 engine steps' worth of cycles beyond the stalls (log 1: a finite list of them; 496 is an inference of the
spec) with the result of the sequential program of R168. -/
def Obligations.IsprimeComputesSequentialProgram : Prop :=
  ∀ s : State, s.regs.busy = false → 2 ≤ s.regs.opa.toNat → s.env.host.all HostOp.isTraffic = true →
    ∃ t, exec .isprime s = .next t ∧
      completesUnderTraffic (s.env.turns.length + 496) t (fun u => u.regs.result.toNat = isPrimeSpec s.regs.opa.toNat)

/-- 42_isprime.md R161 to R167: everything an ISPRIME completion writes: verdict, exit, bases tested, witness, `d` and `r`. -/
def Obligations.IsprimeShowsWholeVerdict : Prop :=
  ∀ s : State, s.regs.busy = false → 2 ≤ s.regs.opa.toNat →
    ∃ t, exec .isprime s = .next t ∧
      completesWithin 496 t (fun u => u.regs.shows (isPrimeVerdict s.regs.opa.toNat) ∧ u.regs.done = true ∧
        u.regs.busy = false ∧ u.regs.err = false ∧ u.regs.ovr = s.regs.ovr ∧ u.regs.opa = s.regs.opa)

/-- 42_isprime.md R169: for odd `n ≥ 5`, with `n - 1 = d · 2^r` as the completed command shows it, the verdict is composite exactly when
some base below `n` is a witness, and `WITNESS` is then the first such base. -/
def Obligations.CompositeExactlyWhenSomeBaseWitnesses : Prop :=
  ∀ s t : State, s.regs.busy = false → 5 ≤ s.regs.opa.toNat → s.regs.opa.toNat % 2 = 1 → exec .isprime s = .next t →
    completesWithin 496 t (fun u =>
      let n := s.regs.opa.toNat
      let d := u.regs.dreg.toNat
      let r := u.regs.rreg.toNat
      n - 1 = d * 2 ^ r ∧ d % 2 = 1 ∧
      (u.regs.result.toNat = 0 ∨ u.regs.result.toNat = 1) ∧
      (u.regs.result.toNat = 0 ↔ ∃ b ∈ baseList, b < n ∧ isWitness n d r b) ∧
      (u.regs.result.toNat = 0 → u.regs.infoExit = .witness ∧ u.regs.witness.toNat ∈ baseList ∧
        isWitness n d r u.regs.witness.toNat ∧ ∀ b ∈ baseList, b < u.regs.witness.toNat → ¬ isWitness n d r b))

/-- 42_isprime.md R172 ("this function never produces a false positive or false negative for any valid input"), the half that needs no
computation over the domain: a prime is never called composite. -/
def Obligations.PrimesAreNeverCalledComposite : Prop :=
  ∀ s t : State, s.regs.busy = false → Nat.Prime s.regs.opa.toNat → exec .isprime s = .next t →
    completesWithin 496 t (fun u => u.regs.result.toNat = 1)

/-- 42_isprime.md R173: every `n` that ends by early termination is prime. -/
def Obligations.EarlyTerminationOnlyAtPrimes : Prop :=
  ∀ s t : State, s.regs.busy = false → 2 ≤ s.regs.opa.toNat → exec .isprime s = .next t →
    completesWithin 496 t (fun u =>
      u.regs.infoExit = .early → Nat.Prime s.regs.opa.toNat ∧ 5 ≤ s.regs.opa.toNat ∧ s.regs.opa.toNat ≤ 61)

/-! ## The host script -/

/-- 30_encoding.md R86, R87, R88: the triples of the lines and the expansions of the pseudo-instructions. -/
def Obligations.ScriptLinesEncode : Prop :=
  (∀ (r : RegName) (v : Nat), v < 2 ^ 32 →
    ∃ d : Word, (ScriptLine.wr (.named r) v).encode = { we := true, addr := r.index, data := d } ∧ d.toNat = v) ∧
  (∀ (r : RegName) (name : String), (ScriptLine.rd (.named r) name).encode = { we := false, addr := r.index, data := 0#32 }) ∧
  (∀ (i : BitVec 4) (v : Nat) (name : String), v < 2 ^ 32 →
    (ScriptLine.wr (.literal (4 * i.toNat)) v).wellFormed = true ∧
    (∃ d : Word, (ScriptLine.wr (.literal (4 * i.toNat)) v).encode = { we := true, addr := i, data := d } ∧ d.toNat = v) ∧
    (ScriptLine.rd (.literal (4 * i.toNat)) name).encode = { we := false, addr := i, data := 0#32 }) ∧
  (ScriptLine.wr (.named .cmd) 0x2).encode = { we := true, addr := 0x3#4, data := 0x00000002#32 } ∧
  (∀ a e m : Nat, (ScriptItem.modpow a e m).expand =
    [wrOp .opa a, wrOp .opb e, wrOp .opm m, wrOp .cmd 0x00000001]) ∧
  (∀ n : Nat, (ScriptItem.isprime n).expand = [wrOp .opa n, wrOp .cmd 0x00000002]) ∧
  ScriptItem.ack.expand = [wrOp .status 0x0000000E] ∧ ScriptItem.enIrq.expand = [wrOp .ctrl 0x00000001] ∧
  ScriptItem.waitDone.expand = (ScriptItem.wait (.named .status) 0x00000002 0x00000002).expand

/-- 30_encoding.md R88; 70_reset_and_hazards.md R239: on an idle block the four lines of `MODPOW a, e, m` with `m ≥ 1`, in four cycles in
a row, start the command on exactly `a`, `e` and `m`. -/
def Obligations.ModpowScriptStartsCommand : Prop :=
  ∀ (s : State) (a e m : Word) (rest : List HostOp), s.Inv → s.regs.busy = false → 1 ≤ m.toNat →
    s.env.host = (ScriptItem.modpow a.toNat e.toNat m.toNat).expand ++ rest →
    ∃ t, Host.Core.run Sys2Proof.core 4 s = .next t ∧ t.env.host = rest ∧ t.regs.busy = true ∧ t.engine.state = .mpStart ∧
      t.engine.wA = a ∧ t.engine.wE = e ∧ t.engine.wM = m ∧ t.regs.opa = a ∧ t.regs.opb = e ∧ t.regs.opm = m

/-- 70_reset_and_hazards.md R243 ("A host may therefore bound any `WAITDONE` loop"), 30_encoding.md R88: a host that polls `STATUS` for
`DONE` while an accepted command, MODPOW or ISPRIME, runs gets past its wait, and has then read `DONE = 1`. The count of cycles rests
on the model's own choices that a wait makes one read a cycle (log 17, DESIGN CHOICE) and that stalls are a finite list (log 1, DESIGN
CHOICE). -/
def Obligations.PollingEndsForEveryCommand : Prop :=
  ∀ (s t : State) (i : Instr) (rest : List HostOp), s.regs.busy = false →
    (i = .modpow → 1 ≤ s.regs.opm.toNat) → (i = .isprime → 2 ≤ s.regs.opa.toNat) →
    s.env.host = ScriptItem.waitDone.expand ++ rest → exec i s = .next t →
    ∃ k u v, k ≤ s.env.turns.length + 497 ∧ Host.Core.run Sys2Proof.core k t = .next u ∧ u.env.host = rest ∧
      u.env.busRdata = some v ∧ v.getLsbD 1 = true ∧ u.regs.busy = false ∧ u.regs.done = true

/-! ## Mapped accesses in a step -/

/-- 20_memory.md R60, R63, R65: a step whose cycle is a mapped access stops as the mapping stops, and is otherwise the step of the port
access the mapping gives, with no name bound. That the mapping stops outside the window is this model's choice (log 9). -/
def Obligations.MappedStepsAreAccesses : Prop :=
  ∀ (s : State) (r : MappedReq) (rest : List HostOp), s.env.host = .mapped r :: rest →
    (∀ f, mapAccess r = .refused f → step s = .refused f) ∧
    (∀ f, mapAccess r = .fault f → step s = .fault f) ∧
    (∀ x, mapAccess r = .next x → step s = step { s with env := { s.env with host := .access x none :: rest } })
end

