-- ==== Sys2Proof/Laws/State.lean ====
section
/-! SUPPORT. One lemma per field per named update of the state, each true by unfolding, so that no later proof unfolds a
record update. -/

namespace Sys2Proof.Machine

/-! The flag updates of the host-visible registers -/

@[simp] theorem Regs.flagsReject_ctrlIE (c : ErrCode) (r : Regs) : (r.flagsReject c).ctrlIE = r.ctrlIE := rfl
@[simp] theorem Regs.flagsReject_busy (c : ErrCode) (r : Regs) : (r.flagsReject c).busy = r.busy := rfl
@[simp] theorem Regs.flagsReject_done (c : ErrCode) (r : Regs) : (r.flagsReject c).done = true := rfl
@[simp] theorem Regs.flagsReject_err (c : ErrCode) (r : Regs) : (r.flagsReject c).err = true := rfl
@[simp] theorem Regs.flagsReject_ovr (c : ErrCode) (r : Regs) : (r.flagsReject c).ovr = r.ovr := rfl
@[simp] theorem Regs.flagsReject_errcode (c : ErrCode) (r : Regs) : (r.flagsReject c).errcode = c := rfl
@[simp] theorem Regs.flagsReject_opa (c : ErrCode) (r : Regs) : (r.flagsReject c).opa = r.opa := rfl
@[simp] theorem Regs.flagsReject_opb (c : ErrCode) (r : Regs) : (r.flagsReject c).opb = r.opb := rfl
@[simp] theorem Regs.flagsReject_opm (c : ErrCode) (r : Regs) : (r.flagsReject c).opm = r.opm := rfl
@[simp] theorem Regs.flagsReject_result (c : ErrCode) (r : Regs) : (r.flagsReject c).result = r.result := rfl
@[simp] theorem Regs.flagsReject_dreg (c : ErrCode) (r : Regs) : (r.flagsReject c).dreg = r.dreg := rfl
@[simp] theorem Regs.flagsReject_rreg (c : ErrCode) (r : Regs) : (r.flagsReject c).rreg = r.rreg := rfl
@[simp] theorem Regs.flagsReject_infoExit (c : ErrCode) (r : Regs) : (r.flagsReject c).infoExit = r.infoExit := rfl
@[simp] theorem Regs.flagsReject_infoBt (c : ErrCode) (r : Regs) : (r.flagsReject c).infoBt = r.infoBt := rfl
@[simp] theorem Regs.flagsReject_witness (c : ErrCode) (r : Regs) : (r.flagsReject c).witness = r.witness := rfl

@[simp] theorem Regs.flagsOverrun_ctrlIE (r : Regs) : (r.flagsOverrun).ctrlIE = r.ctrlIE := rfl
@[simp] theorem Regs.flagsOverrun_busy (r : Regs) : (r.flagsOverrun).busy = r.busy := rfl
@[simp] theorem Regs.flagsOverrun_done (r : Regs) : (r.flagsOverrun).done = r.done := rfl
@[simp] theorem Regs.flagsOverrun_err (r : Regs) : (r.flagsOverrun).err = r.err := rfl
@[simp] theorem Regs.flagsOverrun_ovr (r : Regs) : (r.flagsOverrun).ovr = true := rfl
@[simp] theorem Regs.flagsOverrun_errcode (r : Regs) : (r.flagsOverrun).errcode = r.errcode := rfl
@[simp] theorem Regs.flagsOverrun_opa (r : Regs) : (r.flagsOverrun).opa = r.opa := rfl
@[simp] theorem Regs.flagsOverrun_opb (r : Regs) : (r.flagsOverrun).opb = r.opb := rfl
@[simp] theorem Regs.flagsOverrun_opm (r : Regs) : (r.flagsOverrun).opm = r.opm := rfl
@[simp] theorem Regs.flagsOverrun_result (r : Regs) : (r.flagsOverrun).result = r.result := rfl
@[simp] theorem Regs.flagsOverrun_dreg (r : Regs) : (r.flagsOverrun).dreg = r.dreg := rfl
@[simp] theorem Regs.flagsOverrun_rreg (r : Regs) : (r.flagsOverrun).rreg = r.rreg := rfl
@[simp] theorem Regs.flagsOverrun_infoExit (r : Regs) : (r.flagsOverrun).infoExit = r.infoExit := rfl
@[simp] theorem Regs.flagsOverrun_infoBt (r : Regs) : (r.flagsOverrun).infoBt = r.infoBt := rfl
@[simp] theorem Regs.flagsOverrun_witness (r : Regs) : (r.flagsOverrun).witness = r.witness := rfl

@[simp] theorem Regs.flagsAccept_ctrlIE (r : Regs) : (r.flagsAccept).ctrlIE = r.ctrlIE := rfl
@[simp] theorem Regs.flagsAccept_busy (r : Regs) : (r.flagsAccept).busy = true := rfl
@[simp] theorem Regs.flagsAccept_done (r : Regs) : (r.flagsAccept).done = false := rfl
@[simp] theorem Regs.flagsAccept_err (r : Regs) : (r.flagsAccept).err = false := rfl
@[simp] theorem Regs.flagsAccept_ovr (r : Regs) : (r.flagsAccept).ovr = r.ovr := rfl
@[simp] theorem Regs.flagsAccept_errcode (r : Regs) : (r.flagsAccept).errcode = .none := rfl
@[simp] theorem Regs.flagsAccept_opa (r : Regs) : (r.flagsAccept).opa = r.opa := rfl
@[simp] theorem Regs.flagsAccept_opb (r : Regs) : (r.flagsAccept).opb = r.opb := rfl
@[simp] theorem Regs.flagsAccept_opm (r : Regs) : (r.flagsAccept).opm = r.opm := rfl
@[simp] theorem Regs.flagsAccept_result (r : Regs) : (r.flagsAccept).result = r.result := rfl
@[simp] theorem Regs.flagsAccept_dreg (r : Regs) : (r.flagsAccept).dreg = r.dreg := rfl
@[simp] theorem Regs.flagsAccept_rreg (r : Regs) : (r.flagsAccept).rreg = r.rreg := rfl
@[simp] theorem Regs.flagsAccept_infoExit (r : Regs) : (r.flagsAccept).infoExit = r.infoExit := rfl
@[simp] theorem Regs.flagsAccept_infoBt (r : Regs) : (r.flagsAccept).infoBt = r.infoBt := rfl
@[simp] theorem Regs.flagsAccept_witness (r : Regs) : (r.flagsAccept).witness = r.witness := rfl

@[simp] theorem Regs.flagsComplete_ctrlIE (r : Regs) : (r.flagsComplete).ctrlIE = r.ctrlIE := rfl
@[simp] theorem Regs.flagsComplete_busy (r : Regs) : (r.flagsComplete).busy = false := rfl
@[simp] theorem Regs.flagsComplete_done (r : Regs) : (r.flagsComplete).done = true := rfl
@[simp] theorem Regs.flagsComplete_err (r : Regs) : (r.flagsComplete).err = r.err := rfl
@[simp] theorem Regs.flagsComplete_ovr (r : Regs) : (r.flagsComplete).ovr = r.ovr := rfl
@[simp] theorem Regs.flagsComplete_errcode (r : Regs) : (r.flagsComplete).errcode = r.errcode := rfl
@[simp] theorem Regs.flagsComplete_opa (r : Regs) : (r.flagsComplete).opa = r.opa := rfl
@[simp] theorem Regs.flagsComplete_opb (r : Regs) : (r.flagsComplete).opb = r.opb := rfl
@[simp] theorem Regs.flagsComplete_opm (r : Regs) : (r.flagsComplete).opm = r.opm := rfl
@[simp] theorem Regs.flagsComplete_result (r : Regs) : (r.flagsComplete).result = r.result := rfl
@[simp] theorem Regs.flagsComplete_dreg (r : Regs) : (r.flagsComplete).dreg = r.dreg := rfl
@[simp] theorem Regs.flagsComplete_rreg (r : Regs) : (r.flagsComplete).rreg = r.rreg := rfl
@[simp] theorem Regs.flagsComplete_infoExit (r : Regs) : (r.flagsComplete).infoExit = r.infoExit := rfl
@[simp] theorem Regs.flagsComplete_infoBt (r : Regs) : (r.flagsComplete).infoBt = r.infoBt := rfl
@[simp] theorem Regs.flagsComplete_witness (r : Regs) : (r.flagsComplete).witness = r.witness := rfl

@[simp] theorem Regs.statusW1C_ctrlIE (v : Word) (r : Regs) : (r.statusW1C v).ctrlIE = r.ctrlIE := rfl
@[simp] theorem Regs.statusW1C_busy (v : Word) (r : Regs) : (r.statusW1C v).busy = r.busy := rfl
@[simp] theorem Regs.statusW1C_done (v : Word) (r : Regs) : (r.statusW1C v).done = (r.done && !v.getLsbD 1) := rfl
@[simp] theorem Regs.statusW1C_err (v : Word) (r : Regs) : (r.statusW1C v).err = (r.err && !v.getLsbD 2) := rfl
@[simp] theorem Regs.statusW1C_ovr (v : Word) (r : Regs) : (r.statusW1C v).ovr = (r.ovr && !v.getLsbD 3) := rfl
@[simp] theorem Regs.statusW1C_errcode (v : Word) (r : Regs) : (r.statusW1C v).errcode = (if v.getLsbD 2 then .none else r.errcode) := rfl
@[simp] theorem Regs.statusW1C_opa (v : Word) (r : Regs) : (r.statusW1C v).opa = r.opa := rfl
@[simp] theorem Regs.statusW1C_opb (v : Word) (r : Regs) : (r.statusW1C v).opb = r.opb := rfl
@[simp] theorem Regs.statusW1C_opm (v : Word) (r : Regs) : (r.statusW1C v).opm = r.opm := rfl
@[simp] theorem Regs.statusW1C_result (v : Word) (r : Regs) : (r.statusW1C v).result = r.result := rfl
@[simp] theorem Regs.statusW1C_dreg (v : Word) (r : Regs) : (r.statusW1C v).dreg = r.dreg := rfl
@[simp] theorem Regs.statusW1C_rreg (v : Word) (r : Regs) : (r.statusW1C v).rreg = r.rreg := rfl
@[simp] theorem Regs.statusW1C_infoExit (v : Word) (r : Regs) : (r.statusW1C v).infoExit = r.infoExit := rfl
@[simp] theorem Regs.statusW1C_infoBt (v : Word) (r : Regs) : (r.statusW1C v).infoBt = r.infoBt := rfl
@[simp] theorem Regs.statusW1C_witness (v : Word) (r : Regs) : (r.statusW1C v).witness = r.witness := rfl

/-! The named operations on the state: which part each one touches -/

@[simp] theorem reject_regs (c : ErrCode) (s : State) : (reject c s).regs = s.regs.flagsReject c := rfl
@[simp] theorem reject_engine (c : ErrCode) (s : State) : (reject c s).engine = s.engine := rfl
@[simp] theorem reject_env (c : ErrCode) (s : State) : (reject c s).env = s.env := rfl

@[simp] theorem acknowledge_regs (v : Word) (s : State) : (acknowledge v s).regs = s.regs.statusW1C v := rfl
@[simp] theorem acknowledge_engine (v : Word) (s : State) : (acknowledge v s).engine = s.engine := rfl
@[simp] theorem acknowledge_env (v : Word) (s : State) : (acknowledge v s).env = s.env := rfl

@[simp] theorem overrun_regs (s : State) : (overrun s).regs = s.regs.flagsOverrun := rfl
@[simp] theorem overrun_engine (s : State) : (overrun s).engine = s.engine := rfl
@[simp] theorem overrun_env (s : State) : (overrun s).env = s.env := rfl

@[simp] theorem acceptModpow_regs (s : State) : (acceptModpow s).regs = s.regs.flagsAccept := rfl
@[simp] theorem acceptModpow_engine (s : State) : (acceptModpow s).engine = { s.engine with wA := s.regs.opa, wE := s.regs.opb, wM := s.regs.opm, state := .mpStart } := rfl
@[simp] theorem acceptModpow_env (s : State) : (acceptModpow s).env = s.env := rfl

@[simp] theorem acceptIsprime_regs (s : State) : (acceptIsprime s).regs = s.regs.flagsAccept := rfl
@[simp] theorem acceptIsprime_engine (s : State) : (acceptIsprime s).engine = { s.engine with ptN := s.regs.opa, state := .ptStart } := rfl
@[simp] theorem acceptIsprime_env (s : State) : (acceptIsprime s).env = s.env := rfl

@[simp] theorem writeCtrl_regs (v : Word) (s : State) : (writeCtrl v s).regs = { s.regs with ctrlIE := v.getLsbD 0 } := rfl
@[simp] theorem writeCtrl_engine (v : Word) (s : State) : (writeCtrl v s).engine = s.engine := rfl
@[simp] theorem writeCtrl_env (v : Word) (s : State) : (writeCtrl v s).env = s.env := rfl

@[simp] theorem writeOpa_regs (v : Word) (s : State) : (writeOpa v s).regs = { s.regs with opa := v } := rfl
@[simp] theorem writeOpa_engine (v : Word) (s : State) : (writeOpa v s).engine = s.engine := rfl
@[simp] theorem writeOpa_env (v : Word) (s : State) : (writeOpa v s).env = s.env := rfl

@[simp] theorem writeOpb_regs (v : Word) (s : State) : (writeOpb v s).regs = { s.regs with opb := v } := rfl
@[simp] theorem writeOpb_engine (v : Word) (s : State) : (writeOpb v s).engine = s.engine := rfl
@[simp] theorem writeOpb_env (v : Word) (s : State) : (writeOpb v s).env = s.env := rfl

@[simp] theorem writeOpm_regs (v : Word) (s : State) : (writeOpm v s).regs = { s.regs with opm := v } := rfl
@[simp] theorem writeOpm_engine (v : Word) (s : State) : (writeOpm v s).engine = s.engine := rfl
@[simp] theorem writeOpm_env (v : Word) (s : State) : (writeOpm v s).env = s.env := rfl

@[simp] theorem resetEdge_regs (s : State) : (resetEdge s).regs = Regs.reset := rfl
@[simp] theorem resetEdge_engine (s : State) : (resetEdge s).engine = Engine.reset := rfl
@[simp] theorem resetEdge_env (s : State) : (resetEdge s).env = s.env := rfl

@[simp] theorem advance_regs (p : PortIn) (s : State) : (advance p s).regs = s.regs := rfl
@[simp] theorem advance_engine (p : PortIn) (s : State) : (advance p s).engine = s.engine := rfl

@[simp] theorem advance_env_host (p : PortIn) (s : State) : (advance p s).env.host = hostAfter s := rfl
@[simp] theorem advance_env_turns (p : PortIn) (s : State) : (advance p s).env.turns = s.env.turns.tail := rfl
@[simp] theorem advance_env_busRdata (p : PortIn) (s : State) : (advance p s).env.busRdata = portRead p s := rfl
@[simp] theorem advance_env_vars (p : PortIn) (s : State) : (advance p s).env.vars = varsAfter p s := rfl

/-! Completion -/

@[simp] theorem complete_ctrlIE (c : Completion) (s : State) : (complete c s).regs.ctrlIE = s.regs.ctrlIE := rfl
@[simp] theorem complete_busy (c : Completion) (s : State) : (complete c s).regs.busy = false := rfl
@[simp] theorem complete_done (c : Completion) (s : State) : (complete c s).regs.done = true := rfl
@[simp] theorem complete_err (c : Completion) (s : State) : (complete c s).regs.err = s.regs.err := rfl
@[simp] theorem complete_ovr (c : Completion) (s : State) : (complete c s).regs.ovr = s.regs.ovr := rfl
@[simp] theorem complete_errcode (c : Completion) (s : State) : (complete c s).regs.errcode = s.regs.errcode := rfl
@[simp] theorem complete_opa (c : Completion) (s : State) : (complete c s).regs.opa = s.regs.opa := rfl
@[simp] theorem complete_opb (c : Completion) (s : State) : (complete c s).regs.opb = s.regs.opb := rfl
@[simp] theorem complete_opm (c : Completion) (s : State) : (complete c s).regs.opm = s.regs.opm := rfl
@[simp] theorem complete_result (c : Completion) (s : State) : (complete c s).regs.result = c.res := rfl
@[simp] theorem complete_dreg (c : Completion) (s : State) : (complete c s).regs.dreg = c.d := rfl
@[simp] theorem complete_rreg (c : Completion) (s : State) : (complete c s).regs.rreg = c.r := rfl
@[simp] theorem complete_infoExit (c : Completion) (s : State) : (complete c s).regs.infoExit = c.exit := rfl
@[simp] theorem complete_infoBt (c : Completion) (s : State) : (complete c s).regs.infoBt = c.bt := rfl
@[simp] theorem complete_witness (c : Completion) (s : State) : (complete c s).regs.witness = c.wit := rfl
@[simp] theorem complete_engine (c : Completion) (s : State) : (complete c s).engine = s.engine := rfl
@[simp] theorem complete_env (c : Completion) (s : State) : (complete c s).env = s.env := rfl

/-! The state after reset -/

@[simp] theorem State.reset_regs : State.reset.regs = Regs.reset := rfl
@[simp] theorem State.reset_engine : State.reset.engine = Engine.reset := rfl
@[simp] theorem State.reset_env : State.reset.env = Env.quiet := rfl
@[simp] theorem Regs.reset_ctrlIE : Regs.reset.ctrlIE = false := rfl
@[simp] theorem Regs.reset_busy : Regs.reset.busy = false := rfl
@[simp] theorem Regs.reset_done : Regs.reset.done = false := rfl
@[simp] theorem Regs.reset_err : Regs.reset.err = false := rfl
@[simp] theorem Regs.reset_ovr : Regs.reset.ovr = false := rfl
@[simp] theorem Regs.reset_errcode : Regs.reset.errcode = .none := rfl
@[simp] theorem Regs.reset_opa : Regs.reset.opa = 0#32 := rfl
@[simp] theorem Regs.reset_opb : Regs.reset.opb = 0#32 := rfl
@[simp] theorem Regs.reset_opm : Regs.reset.opm = 0#32 := rfl
@[simp] theorem Regs.reset_result : Regs.reset.result = 0#32 := rfl
@[simp] theorem Regs.reset_dreg : Regs.reset.dreg = 0#32 := rfl
@[simp] theorem Regs.reset_rreg : Regs.reset.rreg = 0#5 := rfl
@[simp] theorem Regs.reset_infoExit : Regs.reset.infoExit = .none := rfl
@[simp] theorem Regs.reset_infoBt : Regs.reset.infoBt = 0#2 := rfl
@[simp] theorem Regs.reset_witness : Regs.reset.witness = 0#32 := rfl
@[simp] theorem Engine.reset_state : Engine.reset.state = .idle := rfl

end Sys2Proof.Machine
end

