-- ==== Sys2Proof/Laws/Ops.lean ====
section
/-! SUPPORT. One lemma per shared operation that says everything it can do: sequencing, the operands' widths, decoding by
numbers, the register map, the bus write, the engine step, the cycle. Later proofs cite these and do not unfold. -/

namespace Sys2Proof.Machine

/-! Sequencing -/

@[simp] theorem andThen_next (s : State) (f : State → Result) : andThen (.next s) f = f s := rfl

theorem andThen_eq_next {a : Result} {f : State → Result} {t : State} :
    andThen a f = .next t ↔ ∃ s, a = .next s ∧ f s = .next t := by
  cases a <;> simp [andThen]

theorem next_inj {s t : State} : (Host.Outcome.next s : Result) = .next t ↔ s = t := by simp

/-! Operands -/

@[simp] theorem zext64_toNat (v : Word) : (zext64 v).toNat = v.toNat := by
  simp only [zext64, BitVec.toNat_setWidth]
  exact Nat.mod_eq_of_lt (lt_of_lt_of_le v.isLt (by norm_num))

@[simp] theorem trunc32_toNat (v : DWord) : (trunc32 v).toNat = v.toNat % 2 ^ 32 := by
  simp [trunc32, BitVec.toNat_setWidth]

theorem word_eq_zero_iff (v : Word) : v = 0#32 ↔ v.toNat = 0 := by
  constructor
  · rintro rfl; rfl
  · intro h; exact BitVec.eq_of_toNat_eq h

theorem getLsbD_zero_eq (v : Word) : v.getLsbD 0 = decide (v.toNat % 2 = 1) := by
  simp [BitVec.getLsbD, Nat.testBit_zero]

theorem getLsbD_eq (v : Word) (k : Nat) : v.getLsbD k = decide (v.toNat / 2 ^ k % 2 = 1) := by
  simp [BitVec.getLsbD, Nat.testBit_eq_decide_div_mod_eq]

theorem shiftRight_one_toNat (v : Word) : (v >>> 1).toNat = v.toNat / 2 := by
  simp [BitVec.toNat_ushiftRight, Nat.shiftRight_eq_div_pow]

/-- `BASES[i]` by cases (10_state.md R45). -/
theorem baseAt_cases (i : BitVec 2) :
    (i = 0#2 ∧ baseAt i = some 2#32) ∨ (i = 1#2 ∧ baseAt i = some 7#32) ∨ (i = 2#2 ∧ baseAt i = some 61#32) ∨
      (i = 3#2 ∧ baseAt i = none) := by
  have h : ∀ i : BitVec 2, (i = 0#2 ∧ baseAt i = some 2#32) ∨ (i = 1#2 ∧ baseAt i = some 7#32) ∨
      (i = 2#2 ∧ baseAt i = some 61#32) ∨ (i = 3#2 ∧ baseAt i = none) := by decide
  exact h i

/-! The command word -/

theorem rsvField_eq_zero_iff (v : Word) : rsvField v = 0#28 ↔ v.toNat < 16 := by
  rw [← BitVec.toNat_inj]
  simp only [rsvField, BitVec.extractLsb'_toNat, BitVec.toNat_ofNat, Nat.shiftRight_eq_div_pow]
  have := v.isLt
  omega

theorem opField_toNat (v : Word) : (opField v).toNat = v.toNat % 16 := by
  simp [opField, BitVec.extractLsb'_toNat]

/-- The decoder by the word's number (30_encoding.md R84). -/
theorem decodeWord_toNat (v : Word) :
    decodeWord v = if 16 ≤ v.toNat then .error .rsvdBits
      else if v.toNat = 1 then .ok .modpow
      else if v.toNat = 2 then .ok .isprime
      else .error .badOpcode := by
  unfold decodeWord
  by_cases h : 16 ≤ v.toNat
  · have : rsvField v ≠ 0#28 := by rw [Ne, rsvField_eq_zero_iff]; omega
    simp [this, h]
  · have h0 : rsvField v = 0#28 := by rw [rsvField_eq_zero_iff]; omega
    have h1 : (opField v).toNat = v.toNat := by rw [opField_toNat]; omega
    rw [if_neg (not_not.mpr h0), h1, if_neg h]
    split
    · simp_all
    · simp_all
    · rename_i a b; rw [if_neg a, if_neg b]

/-! The register map -/

/-- A word index is a register's, and then the register's own, or it is reserved (10_state.md R22). -/
theorem ofIndex_index (r : RegName) : RegName.ofIndex r.index = some r := by cases r <;> rfl

theorem ofIndex_eq_some_iff (a : BitVec 4) (r : RegName) : RegName.ofIndex a = some r ↔ a = r.index := by
  have h : ∀ a : BitVec 4, ∀ r ∈ [RegName.id, .ctrl, .status, .cmd, .opa, .opb, .opm, .result, .dreg, .rreg, .info, .witness],
      RegName.ofIndex a = some r ↔ a = r.index := by decide
  exact h a r (by cases r <;> simp)

theorem ofIndex_eq_none_iff (a : BitVec 4) : RegName.ofIndex a = none ↔ 12 ≤ a.toNat := by
  have h : ∀ a : BitVec 4, RegName.ofIndex a = none ↔ 12 ≤ a.toNat := by decide
  exact h a

/-! The commands -/

/-- Everything a command's word can do (40_command_dispatch.md R100): it always answers a next state. -/
theorem exec_cases (i : Instr) (s : State) :
    (s.regs.busy = true ∧ exec i s = .next (overrun s)) ∨
    (s.regs.busy = false ∧
      ((i = .modpow ∧ s.regs.opm.toNat = 0 ∧ exec i s = .next (reject .modZero s)) ∨
        (i = .modpow ∧ 1 ≤ s.regs.opm.toNat ∧ exec i s = .next (acceptModpow s)) ∨
        (i = .isprime ∧ s.regs.opa.toNat < 2 ∧ exec i s = .next (reject .nLt2 s)) ∨
        (i = .isprime ∧ 2 ≤ s.regs.opa.toNat ∧ exec i s = .next (acceptIsprime s)))) := by
  cases hb : s.regs.busy
  · refine .inr ⟨rfl, ?_⟩
    cases i
    · by_cases h : s.regs.opm.toNat = 0
      · exact .inl ⟨rfl, h, by simp [exec, execModpow, hb, modpowModulus, (word_eq_zero_iff _).mpr h]⟩
      · refine .inr (.inl ⟨rfl, by omega, ?_⟩)
        have : s.regs.opm ≠ 0#32 := fun e => h ((word_eq_zero_iff _).mp e)
        simp [exec, execModpow, hb, modpowModulus, this]
    · by_cases h : s.regs.opa.toNat < 2
      · refine .inr (.inr (.inl ⟨rfl, h, ?_⟩))
        have : s.regs.opa < 2#32 := by simpa [BitVec.lt_def] using h
        simp [exec, execIsprime, hb, isprimeN, this]
      · refine .inr (.inr (.inr ⟨rfl, by omega, ?_⟩))
        have : ¬ s.regs.opa < 2#32 := by simpa [BitVec.lt_def] using h
        simp only [exec, execIsprime, hb, isprimeN, Bool.false_eq_true, if_false]
        exact if_neg this
  · exact .inl ⟨rfl, by cases i <;> simp [exec, execModpow, execIsprime, hb]⟩

/-- Everything a command write can do (40_command_dispatch.md R100). -/
theorem commandWrite_cases (v : Word) (s : State) :
    (s.regs.busy = true ∧ commandWrite v s = .next (overrun s)) ∨
    (s.regs.busy = false ∧
      ((∃ e, e ≠ .none ∧ commandWrite v s = .next (reject e s)) ∨
        (v.toNat = 1 ∧ 1 ≤ s.regs.opm.toNat ∧ commandWrite v s = .next (acceptModpow s)) ∨
        (v.toNat = 2 ∧ 2 ≤ s.regs.opa.toNat ∧ commandWrite v s = .next (acceptIsprime s)))) := by
  cases hb : s.regs.busy
  · refine .inr ⟨rfl, ?_⟩
    have hc : commandWrite v s =
        match decodeWord v with
        | .ok i => exec i s
        | .error e => .next (reject (cmdErrCode e) s) := if_neg (by simp [hb])
    rw [hc, decodeWord_toNat]
    by_cases h16 : 16 ≤ v.toNat
    · exact .inl ⟨.rsvdBits, by simp, by simp [h16, cmdErrCode]⟩
    by_cases h1 : v.toNat = 1
    · obtain ⟨h, -⟩ | ⟨-, h | h | h | h⟩ := exec_cases .modpow s
      · simp [hb] at h
      · exact .inl ⟨.modZero, by simp, by simp [h1, h.2.2]⟩
      · exact .inr (.inl ⟨h1, h.2.1, by simp [h1, h.2.2]⟩)
      · exact absurd h.1 (by simp)
      · exact absurd h.1 (by simp)
    by_cases h2 : v.toNat = 2
    · obtain ⟨h, -⟩ | ⟨-, h | h | h | h⟩ := exec_cases .isprime s
      · simp [hb] at h
      · exact absurd h.1 (by simp)
      · exact absurd h.1 (by simp)
      · exact .inl ⟨.nLt2, by simp, by simp [h2, h.2.2]⟩
      · exact .inr (.inr ⟨h2, h.2.1, by simp [h2, h.2.2]⟩)
    · exact .inl ⟨.badOpcode, by simp, by simp [h16, h1, h2, cmdErrCode]⟩
  · exact .inl ⟨rfl, by simp [commandWrite, hb]⟩

/-- Everything a bus write can do (20_memory.md R61). -/
theorem busWrite_cases (a : BitVec 4) (v : Word) (s : State) :
    (a = RegName.ctrl.index ∧ busWrite a v s = .next (writeCtrl v s)) ∨
    (a = RegName.status.index ∧ busWrite a v s = .next (acknowledge v s)) ∨
    (a = RegName.cmd.index ∧ busWrite a v s = commandWrite v s) ∨
    (a = RegName.opa.index ∧ busWrite a v s = .next (writeOpa v s)) ∨
    (a = RegName.opb.index ∧ busWrite a v s = .next (writeOpb v s)) ∨
    (a = RegName.opm.index ∧ busWrite a v s = .next (writeOpm v s)) ∨
    ((a.toNat = 0 ∨ 7 ≤ a.toNat) ∧ busWrite a v s = .next s) := by
  cases h : RegName.ofIndex a with
  | none =>
    have := (ofIndex_eq_none_iff a).mp h
    exact .inr (.inr (.inr (.inr (.inr (.inr ⟨.inr (by omega), by simp [busWrite, h]⟩)))))
  | some r =>
    have ha := (ofIndex_eq_some_iff a r).mp h
    subst ha
    cases r <;> simp only [busWrite, ofIndex_index] <;> simp [RegName.index]

/-- A bus access always answers a next state and leaves the environment alone. -/
theorem busAccess_total (x : Option Xact) (s : State) : ∃ t, busAccess x s = .next t ∧ t.env = s.env := by
  cases x with
  | none => exact ⟨s, rfl, rfl⟩
  | some x =>
    cases hw : x.we
    · exact ⟨s, by simp [busAccess, hw], rfl⟩
    · have hb : busAccess (some x) s = busWrite x.addr x.data s := by simp [busAccess, hw]
      rw [hb]
      obtain ⟨-, h⟩ | ⟨-, h⟩ | ⟨-, h⟩ | ⟨-, h⟩ | ⟨-, h⟩ | ⟨-, h⟩ | ⟨-, h⟩ := busWrite_cases x.addr x.data s
      · exact ⟨_, h, rfl⟩
      · exact ⟨_, h, rfl⟩
      · rw [h]
        obtain ⟨-, h⟩ | ⟨-, ⟨e, -, h⟩ | ⟨-, -, h⟩ | ⟨-, -, h⟩⟩ := commandWrite_cases x.data s <;> exact ⟨_, h, rfl⟩
      · exact ⟨_, h, rfl⟩
      · exact ⟨_, h, rfl⟩
      · exact ⟨_, h, rfl⟩
      · exact ⟨_, h, rfl⟩

/-- The engine sees nothing of a bus access but an acceptance, and an acceptance needs `BUSY = 0`. -/
theorem busAccess_engine_of_busy {x : Option Xact} {s t : State} (hb : s.regs.busy = true)
    (h : busAccess x s = .next t) : t.engine = s.engine ∧ t.regs.busy = true := by
  cases x with
  | none => cases h; exact ⟨rfl, hb⟩
  | some x =>
    cases hw : x.we
    · simp only [busAccess, hw, Bool.false_eq_true, if_false] at h
      cases h; exact ⟨rfl, hb⟩
    · simp only [busAccess, hw, if_true] at h
      obtain ⟨-, e⟩ | ⟨-, e⟩ | ⟨-, e⟩ | ⟨-, e⟩ | ⟨-, e⟩ | ⟨-, e⟩ | ⟨-, e⟩ := busWrite_cases x.addr x.data s
      case inr.inr.inl =>
        obtain ⟨-, f⟩ | ⟨n, -⟩ := commandWrite_cases x.data s
        · rw [e, f] at h; cases h; exact ⟨rfl, hb⟩
        · simp [hb] at n
      all_goals rw [e] at h; cases h; exact ⟨rfl, hb⟩

/-! The engine step -/

/-- Everything an engine step can do to the block: only the engine's registers, or a completion beside them. -/
theorem engineStep_cases {s t : State} (h : engineStep s = .next t) :
    ∃ c, (coreStep s.engine = .next (c, none) ∧ t = { s with engine := c }) ∨
      ∃ v, coreStep s.engine = .next (c, some v) ∧ t = complete v { s with engine := c } := by
  unfold engineStep at h
  split at h
  · rename_i n hn
    obtain ⟨c, o⟩ := n
    cases o with
    | none => cases h; exact ⟨c, .inl ⟨hn, rfl⟩⟩
    | some v => cases h; exact ⟨c, .inr ⟨v, hn, rfl⟩⟩
  · cases h
  · cases h

/-- What a return of the exponentiator does (41_modpow.md R127). -/
theorem returnTo_cases (r : RetTo) (c : Engine) :
    (r = .host ∧ returnTo r c = ({ c with state := .idle }, some (modpowCompletion c))) ∨
    (r = .ptPowret ∧ returnTo r c = ({ c with state := .ptPowret }, none)) ∨
    (r = .ptSqret ∧ returnTo r c = ({ c with state := .ptSqret }, none)) := by
  cases r <;> simp [returnTo]

/-! The host's variables -/

/-- A new binding is the variable's value (30_encoding.md R86). -/
@[simp] theorem lookup_bound (name : String) (v : Word) (vs : List (String × Word)) :
    ((name, v) :: vs).lookup name = some v := by simp [List.lookup]

/-- A new binding leaves every other variable. -/
theorem lookup_other {other name : String} (h : other ≠ name) (v : Word) (vs : List (String × Word)) :
    ((name, v) :: vs).lookup other = vs.lookup other := by
  simp [List.lookup, beq_eq_false_iff_ne.mpr h]

/-! The cycle -/

/-- Everything a step can do: a reset edge, or the bus access and then the engine's part. -/
theorem step_cases {s t : State} (h : step s = .next t) :
    ∃ p, portIn s = .next p ∧
      ((p.rst = true ∧ t = resetEdge (advance p s)) ∨
        (p.rst = false ∧ ∃ u, busAccess p.access (advance p s) = .next u ∧
          ((engineTurn s = true ∧ engineStep u = .next t) ∨ (engineTurn s = false ∧ t = u)))) := by
  unfold step cycle at h
  split at h
  · rename_i p hp
    refine ⟨p, hp, ?_⟩
    unfold clockEdge at h
    cases hr : p.rst
    · rw [hr] at h
      obtain ⟨u, hu, he⟩ := andThen_eq_next.mp (by simpa using h)
      refine .inr ⟨rfl, u, hu, ?_⟩
      cases ht : engineTurn s
      · rw [ht] at he; simp [enginePhase] at he; exact .inr ⟨rfl, he.symm⟩
      · rw [ht] at he; exact .inl ⟨rfl, by simpa [enginePhase] using he⟩
    · rw [hr] at h
      exact .inl ⟨rfl, by simpa using h.symm⟩
  · cases h
  · cases h

/-- A step without reset, run forwards. -/
theorem step_of_access {s u t : State} {p : PortIn} (hp : portIn s = .next p) (hr : p.rst = false)
    (hu : busAccess p.access (advance p s) = .next u) (ht : enginePhase (engineTurn s) u = .next t) :
    step s = .next t := by
  simp [step, cycle, hp, clockEdge, hr, hu, ht]

/-- An engine turn needs a running engine (40_command_dispatch.md R111). -/
theorem engineTurn_running {s : State} (h : engineTurn s = true) : s.engine.state ≠ .idle := by
  simp [engineTurn] at h; exact h.2

end Sys2Proof.Machine
end

