-- ==== Sys2Proof/Laws/PerInstr.lean ====
section
/-! SUPPORT. What holds of every command as syntax, one lemma per constructor (LAWS.json `Encoding`). -/

/-- The word of a command has its reserved bits clear and an opcode other than 0, and the command is well formed
(30_encoding.md R80, R81). -/
def Sys2Proof.Laws.Encoding.Statement (i : Sys2Proof.Instr) : Prop :=
  Sys2Proof.rsvField (Sys2Proof.encode i) = 0#28 ∧ Sys2Proof.opField (Sys2Proof.encode i) ≠ 0#4 ∧ i.wellFormed = true

theorem Sys2Proof.Laws.Encoding.modpow : Sys2Proof.Laws.Encoding.Statement .modpow :=
  ⟨by decide, by decide, rfl⟩

theorem Sys2Proof.Laws.Encoding.isprime : Sys2Proof.Laws.Encoding.Statement .isprime :=
  ⟨by decide, by decide, rfl⟩
end

