-- ==== Sys2Proof/Laws/Run.lean ====
section
/-! SUPPORT. Runs: the host's `Core.run` and `engineRun`, one step at a time and in two parts. -/

namespace Sys2Proof.Machine

/-- `k` cycles of this machine, in this machine's own types. -/
abbrev cycles (k : Nat) (s : State) : Result := Host.Core.run Sys2Proof.core k s

@[simp] theorem cycles_zero (s : State) : cycles 0 s = .next s := rfl

theorem core_run_succ (M : Host.Core) (k : Nat) (s : M.State) :
    M.run (k + 1) s =
      match M.step s with
      | .next s' => M.run k s'
      | .fault r => .fault r
      | .refused r => .refused r := rfl

theorem cycles_succ (k : Nat) (s : State) : cycles (k + 1) s = andThen (step s) (cycles k) := by
  refine Eq.trans (core_run_succ Sys2Proof.core k s) ?_
  have h : Sys2Proof.core.step s = step s := rfl
  rw [h]
  cases step s <;> rfl

theorem cycles_succ_of_step {k : Nat} {s t : State} (h : step s = .next t) : cycles (k + 1) s = cycles k t := by
  rw [cycles_succ, h]; rfl

theorem cycles_add {j k : Nat} {s t : State} (h : cycles j s = .next t) : cycles (j + k) s = cycles k t := by
  induction j generalizing s with
  | zero => cases h; simp
  | succ j ih =>
    rw [cycles_succ] at h
    obtain ⟨u, hu, hr⟩ := andThen_eq_next.mp h
    rw [show j + 1 + k = (j + k) + 1 by omega, cycles_succ_of_step hu]
    exact ih hr

@[simp] theorem engineRun_zero (s : State) : engineRun 0 s = .next s := rfl

theorem engineRun_succ_of_step {k : Nat} {s t : State} (h : engineStep s = .next t) :
    engineRun (k + 1) s = engineRun k t := by
  simp [engineRun, h]

theorem engineRun_add {j k : Nat} {s t : State} (h : engineRun j s = .next t) : engineRun (j + k) s = engineRun k t := by
  induction j generalizing s with
  | zero => cases h; simp
  | succ j ih =>
    obtain ⟨u, hu, hr⟩ := andThen_eq_next.mp h
    rw [show j + 1 + k = (j + k) + 1 by omega, engineRun_succ_of_step hu]
    exact ih hr

/-- In IDLE the engine takes no step (10_state.md R41). -/
theorem engineStep_idle {s : State} (h : s.engine.state = .idle) : engineStep s = .next s := by
  simp [engineStep, coreStep, h, settle]

end Sys2Proof.Machine
end

