-- ==== Sys2Proof/Tests/Slice0.lean ====
section
/-! SUPPORT. Tests. First the decoder on words written out from 30_encoding.md, then the smoke tests of WellFormed, then one-step
tests whose expected values stand in the spec (the rule or the vector is named), then for each statement with hypotheses a witness
that meets them. -/

namespace Sys2Proof.Machine.Tests

open Sys2Proof Sys2Proof.Machine

/-! ## Small states -/

/-- An idle block with three operands written. -/
def ready (a b m : Word) : State := { State.reset with regs := { Regs.reset with opa := a, opb := b, opm := m } }

/-- A block that runs a command, with the given engine. -/
def running (c : Engine) : State := { State.reset with regs := { Regs.reset with busy := true }, engine := c }

/-- The state with the given coming host operations. -/
def hosting (ops : List HostOp) (s : State) : State := s.withScript ops

/-- The engine inside the exponentiator's loop. -/
def looping (acc b : DWord) (e m : Word) (ret : RetTo) : Engine :=
  { Engine.reset with state := .mpLoop, mpAcc := acc, mpB := b, mpE := e, mpM := m, mpRet := ret }

/-- The witness engine on `n = d · 2^r + 1`, at base `i`. -/
def testingAt (st : EngState) (n d : Word) (r : BitVec 5) (i : BitVec 2) : Engine :=
  { Engine.reset with state := st, ptN := n, ptD := d, ptR := r, ptI := i }

/-- A write at a word index. -/
def wr (a : BitVec 4) (v : Word) : HostOp := .access { we := true, addr := a, data := v } none

/-! ## Decoding: words written out from 30_encoding.md R80 to R84 -/

theorem test_decode_modpow : decodeWord (0b0000000000000000000000000000#28 ++ 0b0001#4) = .ok .modpow := by decide

theorem test_decode_isprime : decodeWord (0b0000000000000000000000000000#28 ++ 0b0010#4) = .ok .isprime := by decide

theorem test_decode_opcode_zero : decodeWord (0b0000000000000000000000000000#28 ++ 0b0000#4) = .error .badOpcode := by decide

theorem test_decode_opcode_three : decodeWord (0b0000000000000000000000000000#28 ++ 0b0011#4) = .error .badOpcode := by decide

theorem test_decode_opcode_fifteen : decodeWord (0b0000000000000000000000000000#28 ++ 0b1111#4) = .error .badOpcode := by decide

/-- The reserved bits are tested before the opcode (R84, R103). -/
theorem test_decode_reserved_bits :
    decodeWord (0b0000000000000000000000000001#28 ++ 0b0000#4) = .error .rsvdBits ∧
    decodeWord (0b1000000000000000000000000000#28 ++ 0b0001#4) = .error .rsvdBits := by decide

/-- The bytes of the two words, lowest address first (20_memory.md R64). -/
theorem test_decode_bytes :
    decodeBytes [0x01#8, 0x00#8, 0x00#8, 0x00#8] = .ok .modpow ∧ decodeBytes [0x02#8, 0x00#8, 0x00#8, 0x00#8] = .ok .isprime ∧
    decodeBytes [0x00#8, 0x00#8, 0x00#8, 0x01#8] = .error (.word .rsvdBits) ∧ decodeBytes [0x01#8] = .error .notOneWord := by
  decide

theorem test_decode_table_words :
    decodeTableWord 32 1 = some .modpow ∧ decodeTableWord 32 2 = some .isprime ∧ decodeTableWord 32 3 = none ∧
    decodeTableWord 32 0x10001 = none ∧ decodeTableWord 8 1 = some .modpow := by decide

/-! ## WellFormed smoke -/

/-- A command word has no operand: there is no ill-formed command (30_encoding.md R83). -/
theorem test_wellFormed_commands : Instr.wellFormed .modpow = true ∧ Instr.wellFormed .isprime = true := by decide

/-- 30_encoding.md R86: a value of `2^32` is out of range. -/
theorem test_wellFormed_value :
    (ScriptLine.wr (.named .opa) 0xFFFFFFFF).wellFormed = true ∧ (ScriptLine.wr (.named .opa) 0x100000000).wellFormed = false := by
  decide

/-- 00_scope.md R10: a literal offset is a multiple of 4 in `[0x00, 0x3C]`. -/
theorem test_wellFormed_offset :
    (ScriptLine.rd (.literal 0x3C) "t").wellFormed = true ∧ (ScriptLine.rd (.literal 0x02) "t").wellFormed = false ∧
    (ScriptLine.wr (.literal 0x40) 0).wellFormed = false ∧ (ScriptLine.wr (.literal 0x41) 0).wellFormed = false := by decide

/-- Each literal of a pseudo-instruction is checked. -/
theorem test_wellFormed_items :
    (ScriptItem.modpow 0x100000000 0 1).wellFormed = false ∧ (ScriptItem.modpow 0 0x100000000 1).wellFormed = false ∧
    (ScriptItem.modpow 0 0 0x100000000).wellFormed = false ∧ (ScriptItem.isprime 0x100000000).wellFormed = false ∧
    (ScriptItem.wait (.literal 0x40) 1 1).wellFormed = false ∧ (ScriptItem.wait (.named .status) 0x100000000 1).wellFormed = false ∧
    (ScriptItem.wait (.named .status) 1 0x100000000).wellFormed = false ∧
    (ScriptItem.line (.wr (.literal 0x02) 0)).wellFormed = false := by decide

theorem test_assemble_refuses_ill_formed :
    assemble [.enIrq, .isprime 0x100000000] = none ∧
    assemble [.isprime 7] = some [wr 0x4#4 7#32, wr 0x3#4 2#32] := by decide

/-! ## Commands: dispatch vectors of 95_test_vectors.md section 2.3 -/

/-- D13: MODPOW with `OPM = 1` is accepted, `STATUS = 0x00000001`. D8: with `OPM = 0` it is rejected, `STATUS = 0x00000036`. -/
theorem test_modpow_dispatch :
    (nextOf? (exec .modpow (ready 0 0 1))).map (fun t => (busRead 0x2#4 t, t.engine.state)) = some (0x00000001#32, .mpStart) ∧
    (nextOf? (exec .modpow (ready 0 0 0))).map (fun t => (busRead 0x2#4 t, t.engine.state)) = some (0x00000036#32, .idle) := by
  decide

/-- D12: ISPRIME with `OPA = 2` is accepted, and `OPM` is not read. D10: with `OPA = 0` it is rejected, `STATUS = 0x00000046`. -/
theorem test_isprime_dispatch :
    (nextOf? (exec .isprime (ready 2 0 0))).map (fun t => (busRead 0x2#4 t, t.engine.state, t.engine.ptN)) =
      some (0x00000001#32, .ptStart, 2#32) ∧
    (nextOf? (exec .isprime (ready 0 0 0))).map (fun t => (busRead 0x2#4 t, t.engine.state)) = some (0x00000046#32, .idle) := by
  decide

/-- The host's fetch hook: the first step after reset runs the command word (its operands are still 0, so it is rejected). -/
theorem test_first_step_runs_the_word :
    (nextOf? (step (State.reset.withFetchWord 32 1))).map (busRead 0x2#4) = some 0x00000036#32 ∧
    (nextOf? (step (State.reset.withFetchWord 32 2))).map (busRead 0x2#4) = some 0x00000046#32 := by
  decide

/-! ## Engine steps: the worked examples of 41_modpow.md R133 and 42_isprime.md R176 -/

/-- R133. Step 1; step 4, where the fold uses the old base; step 6, with `RESULT = 445`, `STATUS = 2`, `INFO = 0`. -/
theorem test_modpow_engine_steps :
    (nextOf? (engineStep (running { Engine.reset with state := .mpStart, wA := 4#32, wE := 13#32, wM := 497#32 }))).map
      (fun t => (t.engine.mpAcc, t.engine.mpB, t.engine.mpE, t.engine.state)) = some (1#64, 4#64, 13#32, .mpLoop) ∧
    (nextOf? (engineStep (running (looping 4 256 3 497 .host)))).map
      (fun t => (t.engine.mpAcc, t.engine.mpB, t.engine.mpE)) = some (30#64, 429#64, 1#32) ∧
    (nextOf? (engineStep (running (looping 445 151 0 497 .host)))).map
      (fun t => (busRead 0x7#4 t, busRead 0x2#4 t, busRead 0xA#4 t)) = some (445#32, 2#32, 0#32) := by
  decide

/-- R176. Step 1; step 6, the call `modpow(2, 1, 9)`; step 9, where 2 is neither 1 nor 8; step 19, where 7 is not 8; step 20 and the
end state, with `RESULT = 0`, `STATUS = 2`, `INFO = 0x13`, `WITNESS = 2`, `DREG = 1`, `RREG = 3`. -/
theorem test_isprime_engine_steps :
    (nextOf? (engineStep (running { Engine.reset with state := .ptStart, ptN := 9#32 }))).map
      (fun t => (t.engine.ptD, t.engine.ptR, t.engine.state)) = some (8#32, 0#5, .ptDecomp) ∧
    (nextOf? (engineStep (running (testingAt .ptBase 9 1 3 0)))).map
      (fun t => (t.engine.mpB, t.engine.mpE, t.engine.mpM, t.engine.mpRet, t.engine.state)) =
        some (2#64, 1#32, 9#32, .ptPowret, .mpLoop) ∧
    (nextOf? (engineStep (running { testingAt .ptPowret 9 1 3 0 with mpRes := 2#32 }))).map
      (fun t => (t.engine.ptM, t.engine.ptJ, t.engine.state)) = some (2#32, 0#5, .ptSq) ∧
    (nextOf? (engineStep (running { testingAt .ptSqret 9 1 3 0 with ptJ := 1#5, mpRes := 7#32 }))).map
      (fun t => (t.engine.ptM, t.engine.ptJ, t.engine.state)) = some (7#32, 2#5, .ptSq) ∧
    (nextOf? (engineStep (running { testingAt .ptSq 9 1 3 0 with ptJ := 2#5, ptM := 7#32 }))).map
      (fun t => (busRead 0x7#4 t, busRead 0x2#4 t, busRead 0xA#4 t, busRead 0xB#4 t, busRead 0x8#4 t, busRead 0x9#4 t)) =
        some (0#32, 2#32, 0x13#32, 2#32, 1#32, 3#32) := by
  exact ⟨by decide, by decide, by decide, by decide, by decide⟩

/-! ## Witnesses: for each statement with hypotheses, states and operands that meet them together -/

theorem witness_ByteLanesRoundTrip : ([] : List Byte).length ≠ 4 ∧ [0#8, 0#8, 0#8, 0#8, 0#8].length ≠ 4 ∧ 0 < 4 ∧ 3 < 4 := by decide

/-- Each clause, at the ends of its range of words and operands. -/
theorem witness_CommandWriteClassifiesEveryWord :
    (running Engine.reset).regs.busy = true ∧ (ready 0 0 0).regs.busy = false ∧
    16 ≤ (16#32).toNat ∧ 16 ≤ (0xFFFFFFFF#32).toNat ∧ ((0#32).toNat = 0) ∧ (3 ≤ (3#32).toNat ∧ (15#32).toNat ≤ 15) ∧
    (ready 0 0 0).regs.opm.toNat = 0 ∧ 1 ≤ (ready 0 0 1).regs.opm.toNat ∧ 1 ≤ (ready 0 0 0xFFFFFFFF).regs.opm.toNat ∧
    (ready 1 0 0).regs.opa.toNat < 2 ∧ 2 ≤ (ready 2 0 0).regs.opa.toNat ∧ 2 ≤ (ready 0xFFFFFFFF 0 0).regs.opa.toNat := by
  decide

theorem witness_ModpowIsAccepted :
    ((ready 4 13 497).regs.busy = false ∧ 1 ≤ (ready 4 13 497).regs.opm.toNat) ∧
    ((ready 0 0 1).regs.busy = false ∧ 1 ≤ (ready 0 0 1).regs.opm.toNat) := by decide

theorem witness_IsprimeIsAccepted :
    ((ready 9 0 0).regs.busy = false ∧ 2 ≤ (ready 9 0 0).regs.opa.toNat) ∧
    ((ready 2 0 0).regs.busy = false ∧ 2 ≤ (ready 2 0 0).regs.opa.toNat) := by decide

theorem witness_BadOperandTakesRejection :
    ((ready 5 0 0).regs.busy = false ∧ (ready 5 0 0).regs.opm.toNat = 0) ∧
    ((ready 1 0 0).regs.busy = false ∧ (ready 1 0 0).regs.opa.toNat < 2) ∧ (ready 0 0 0).regs.opa.toNat < 2 := by decide

/-- Each clause, at the ends of its range: reserved bits (16, `2^32 - 1`), and opcodes 0, 3 and 15. -/
theorem witness_BadWordTakesRejection :
    (ready 0 0 0).regs.busy = false ∧ (16#32).toNat / 16 ≠ 0 ∧ (0xFFFFFFFF#32).toNat / 16 ≠ 0 ∧
    ((0#32).toNat / 16 = 0 ∧ (0#32).toNat % 16 ≠ 1 ∧ (0#32).toNat % 16 ≠ 2) ∧
    ((3#32).toNat / 16 = 0 ∧ (3#32).toNat % 16 ≠ 1 ∧ (3#32).toNat % 16 ≠ 2) ∧
    ((15#32).toNat / 16 = 0 ∧ (15#32).toNat % 16 ≠ 1 ∧ (15#32).toNat % 16 ≠ 2) := by decide

theorem witness_CommandWhileBusyOnlySetsOvr : (running (looping 1 2 3 5 .host)).regs.busy = true := by decide

/-- A word that decodes, and, with a name, one that does not. -/
theorem witness_StepRunsDecodedCommand :
    (hosting [wr 0x3#4 1#32] (ready 4 13 497)).env.host =
      .access { we := true, addr := RegName.cmd.index, data := 1#32 } none :: [] ∧ decodeWord 1#32 = .ok .modpow ∧
    (hosting [.access { we := true, addr := 0x3#4, data := 3#32 } (some "t")] (ready 4 13 497)).env.host =
      .access { we := true, addr := RegName.cmd.index, data := 3#32 } (some "t") :: [] := by decide

theorem witness_FetchWordRunsExactly : decodeTableWord 32 1 = some .modpow ∧ decodeTableWord 32 2 = some .isprime := by decide

/-- The last step of MODPOW while the host writes `CMD`, and while it writes `STATUS`. -/
theorem witness_CompletionCycleOrdersAccessFirst :
    let s := hosting [wr 0x3#4 1#32] (running (looping 445 151 0 497 .host))
    let s' := hosting [wr 0x2#4 0xE#32] (running (looping 445 151 0 497 .host))
    (s.regs.busy = true ∧ engineTurn s = true ∧ ∃ n c, coreStep s.engine = .next (n, some c)) ∧
    (s'.regs.busy = true ∧ engineTurn s' = true ∧ ∃ n c, coreStep s'.engine = .next (n, some c)) :=
  ⟨⟨rfl, rfl, _, _, rfl⟩, ⟨rfl, rfl, _, _, rfl⟩⟩

theorem inv_of_ready (a b m : Word) : (ready a b m).Inv := ⟨by simp [ready, State.reset, Regs.reset, Engine.reset],
  ⟨by simp [ready, State.reset, Regs.reset], by simp [ready, State.reset, Regs.reset]⟩, trivial⟩

theorem inv_of_running {c : Engine} (hc : c.state ≠ .idle) (h : c.Inv) : (running c).Inv :=
  ⟨by simp [running, Regs.reset, hc], ⟨by simp [running, Regs.reset], by simp [running, Regs.reset]⟩, h⟩

theorem witness_AcceptingCycleTakesNoEngineStep :
    let s := hosting [.access { we := true, addr := RegName.cmd.index, data := encode .modpow } none] (ready 4 13 497)
    let s' := hosting [.access { we := true, addr := RegName.cmd.index, data := encode .isprime } none] (ready 2 0 0)
    (s.Inv ∧ s.regs.busy = false ∧ 1 ≤ s.regs.opm.toNat) ∧ (s'.Inv ∧ s'.regs.busy = false ∧ 2 ≤ s'.regs.opa.toNat) :=
  ⟨⟨inv_of_ready 4 13 497, by decide, by decide⟩, ⟨inv_of_ready 2 0 0, by decide, by decide⟩⟩

/-- Widths 1, 2 and 8; addresses 1 and 2; one byte; the address just above the window, for a load and for a store of four bytes; and
the ends of the index range. -/
theorem witness_MappedAccessesTranslate :
    (1 ≠ 4 ∧ 2 ≠ 4 ∧ 8 ≠ 4) ∧ (1 % 4 ≠ 0 ∧ 2 % 4 ≠ 0) ∧ [0#8].length ≠ 4 ∧ [0#8, 0#8, 0#8, 0#8].length = 4 ∧
    ((Config.baseAddr + 64) % 4 = 0 ∧ Config.baseAddr + 64 ≤ Config.baseAddr + 64) ∧ (0x0#4).toNat = 0 ∧ (0xF#4).toNat = 15 := by
  refine ⟨by decide, by decide, by decide, by decide, ⟨?_, le_rfl⟩, rfl, rfl⟩
  simp only [Config.baseAddr, Config.windowBytes]
  omega

theorem witness_ReadsReturnEachRegister : 0xC ≤ (0xC#4).toNat ∧ 0xC ≤ (0xF#4).toNat := by decide

/-- With the engine idle and no name, and with an engine turn in the same cycle and a name. -/
theorem witness_ReadsHaveNoSideEffect :
    let op := fun bind : Option String => HostOp.access { we := false, addr := 0x2#4, data := 0#32 } bind
    engineTurn (hosting [op none] (ready 4 13 497)) = false ∧
    engineTurn (hosting [op (some "t")] (running (looping 4 256 3 497 .host))) = true ∧
    ∃ t, step (hosting [op (some "t")] (running (looping 4 256 3 497 .host))) = .next t ∧ t.var "t" = some 1#32 :=
  ⟨rfl, rfl, _, rfl, rfl⟩

theorem witness_ReadOnlyAndReservedWritesIgnored :
    (0x0#4).toNat = 0 ∧ 7 ≤ (0x7#4).toNat ∧ 7 ≤ (0xF#4).toNat ∧ 12 ≤ (0xC#4).toNat := by decide

theorem witness_ResetValues : Engine.reset.state = .idle ∧ { Engine.reset with mpAcc := 7#64 }.state = .idle := by decide

theorem witness_ScriptLinesEncode : 0 < 2 ^ 32 ∧ 0xFFFFFFFF < 2 ^ 32 := by decide

theorem witness_WriteThenReadBack :
    (∃ t, busWrite 0x4#4 7#32 (ready 0 0 0) = .next t) ∧ (∃ t, busWrite 0x1#4 3#32 (ready 0 0 0) = .next t) ∧
    (∃ t, busWrite 0x0#4 7#32 (ready 0 0 0) = .next t) ∧ (∃ t, busWrite 0xF#4 7#32 (ready 0 0 0) = .next t) :=
  ⟨⟨_, rfl⟩, ⟨_, rfl⟩, ⟨_, rfl⟩, ⟨_, rfl⟩⟩

/-- A reset edge in the middle of a command, with a command write in the same cycle. -/
theorem witness_ResetEdgeTakesResetValues :
    (hosting [.rst (some { we := true, addr := 0x3#4, data := 1#32 })] (running (looping 4 256 3 497 .host))).env.host =
      .rst (some { we := true, addr := 0x3#4, data := 1#32 }) :: [] := rfl

theorem witness_FirstCommandAfterReset : 2 ≤ (2#32).toNat ∧
    (hosting [.rst none, wrOp .opa 2, wrOp .cmd 2] (ready 0 0 0)).env.host =
      .rst none :: wrOp .opa (2#32).toNat :: wrOp .cmd 2 :: [] := ⟨by decide, rfl⟩

/-- `irq` rises by a rejection with `IE = 1`, by a completion with `IE = 1`, and falls by the W1C write. -/
theorem witness_IrqChangesOnlyForItsCauses :
    (∃ s t : State, s.Inv ∧ step s = .next t ∧ resetPresented s = false ∧ s.irq = false ∧ t.irq = true) ∧
    (∃ s t : State, s.Inv ∧ step s = .next t ∧ resetPresented s = false ∧ s.irq = false ∧ t.irq = true ∧ s.regs.busy = true) ∧
    (∃ s t : State, s.Inv ∧ step s = .next t ∧ resetPresented s = false ∧ s.irq = true ∧ t.irq = false) := by
  refine ⟨⟨{ hosting [wr 0x3#4 0#32] (ready 0 0 0) with regs := { Regs.reset with ctrlIE := true } }, _,
      ⟨by decide, ⟨by decide, by decide⟩, trivial⟩, rfl, rfl, rfl, rfl⟩,
    ⟨{ running (looping 445 151 0 497 .host) with regs := { Regs.reset with busy := true, ctrlIE := true } }, _,
      ⟨by decide, ⟨by decide, by decide⟩, ⟨by decide, by decide, by decide, trivial⟩⟩, rfl, rfl, rfl, rfl, rfl⟩,
    ⟨{ hosting [wr 0x2#4 0xE#32] (ready 0 0 0) with regs := { Regs.reset with ctrlIE := true, done := true } }, _,
      ⟨by decide, ⟨by decide, by decide⟩, trivial⟩, rfl, rfl, rfl, rfl⟩⟩

theorem witness_ModMulIsExact : 1 ≤ (1#32).toNat ∧ 1 ≤ (0xFFFFFFFF#32).toNat := by decide

theorem witness_ModpowStartStep :
    let c : Engine := { Engine.reset with state := .mpStart, wA := 4#32, wE := 1#32, wM := 497#32 }
    (running c).engine.state = .mpStart ∧ 1 ≤ (running c).engine.wE.toNat ∧
      (running { c with wE := 0#32 }).engine.wE.toNat = 0 := by decide

theorem witness_LoopStepFoldsAndSquares :
    let s := running (looping 4 256 3 497 .host)
    let s' := running (looping 4 16 6 497 .host)
    (s.engine.state = .mpLoop ∧ 1 ≤ s.engine.mpM.toNat ∧ 1 ≤ s.engine.mpE.toNat ∧ s.engine.mpE.toNat % 2 = 1) ∧
    (s'.engine.state = .mpLoop ∧ 1 ≤ s'.engine.mpM.toNat ∧ 1 ≤ s'.engine.mpE.toNat ∧ s'.engine.mpE.toNat % 2 ≠ 1) := by decide

/-- One witness for each of the three callers. -/
theorem witness_LoopReturnGoesToCaller :
    ∀ r ∈ [RetTo.host, .ptPowret, .ptSqret], let s := running (looping 445 151 0 497 r)
      s.engine.state = .mpLoop ∧ 1 ≤ s.engine.mpM.toNat ∧ s.engine.mpE.toNat = 0 ∧ s.engine.mpRet = r := by decide

/-- `n` = 2 and 3 (small), 4 (even), 5 and `2^32 - 1` (odd). -/
theorem witness_FastPathsDecideSmallAndEven :
    ∀ n ∈ [2#32, 3#32, 4#32, 5#32, 0xFFFFFFFF#32], let s := running { Engine.reset with state := .ptStart, ptN := n }
      s.engine.state = .ptStart ∧ 2 ≤ s.engine.ptN.toNat := by
  intro n hn
  fin_cases hn <;> decide

/-- `d` even (R176, step 2) and `d` odd (step 5). -/
theorem witness_DecompositionHalves :
    let s := running (testingAt .ptDecomp 9 8 0 0)
    let s' := running (testingAt .ptDecomp 9 1 3 0)
    (s.Inv ∧ s.engine.state = .ptDecomp ∧ s.engine.ptD.toNat % 2 = 0) ∧
    (s'.Inv ∧ s'.engine.state = .ptDecomp ∧ s'.engine.ptD.toNat % 2 = 1) := by
  refine ⟨⟨inv_of_running (by decide) ?_, by decide, by decide⟩, ⟨inv_of_running (by decide) ?_, by decide, by decide⟩⟩
  all_goals exact ⟨by decide, by decide, by decide⟩

/-- Every base done; early termination at base 7 of `n = 7`; the call for base 2 of `n = 9`. -/
theorem witness_BaseStepTerminatesOrCalls :
    let s := running (testingAt .ptBase 73 9 3 3)
    let s' := running (testingAt .ptBase 7 3 1 1)
    let s'' := running (testingAt .ptBase 9 1 3 0)
    (s.engine.state = .ptBase ∧ 1 ≤ s.engine.ptD.toNat ∧ s.engine.ptI.toNat = 3) ∧
    (s'.engine.state = .ptBase ∧ 1 ≤ s'.engine.ptD.toNat ∧ baseList[s'.engine.ptI.toNat]? = some 7 ∧ s'.engine.ptN.toNat ≤ 7) ∧
    (s''.engine.state = .ptBase ∧ 1 ≤ s''.engine.ptD.toNat ∧ baseList[s''.engine.ptI.toNat]? = some 2 ∧
      2 < s''.engine.ptN.toNat) := by decide

theorem inv_testing {n d m : Word} {r : BitVec 5} {st : EngState} {j : BitVec 5} {res : Word}
    (h : n.toNat % 2 = 1 ∧ 5 ≤ n.toNat ∧ n.toNat - 1 = d.toNat * 2 ^ r.toNat) (hd : d.toNat % 2 = 1) (hr : 1 ≤ r.toNat) :
    Engine.testing { testingAt st n d r 0 with ptJ := j, ptM := m, mpRes := res } := by
  refine ⟨⟨h, hd, hr⟩, ?_⟩
  simp only [Engine.baseBelow, testingAt]
  have : baseAt 0#2 = some 2#32 := rfl
  rw [show (0 : BitVec 2) = 0#2 from rfl, this]
  simp [BitVec.lt_def]
  omega

/-- `m = 2` goes on to the squarings (R176, step 9), `m = 8 = n - 1` passes; after a squaring, 4 goes on and 8 passes. -/
theorem witness_ReturnTestsPassOrContinue :
    (∀ m ∈ [1#32, 2#32, 8#32], (running { testingAt .ptPowret 9 1 3 0 with mpRes := m }).Inv) ∧
    (∀ m ∈ [4#32, 8#32], (running { testingAt .ptSqret 9 1 3 0 with mpRes := m, ptM := 2#32 }).Inv) := by
  constructor
  · intro m hm
    refine inv_of_running EngState.noConfusion ⟨inv_testing (j := 0#5) (m := 0#32) (by decide) (by decide) (by decide), ?_⟩
    fin_cases hm <;> decide
  · intro m hm
    refine inv_of_running EngState.noConfusion
      ⟨⟨inv_testing (j := 0#5) (m := 2#32) (by decide) (by decide) (by decide), by show (0#5).toNat + 2 ≤ (3#5).toNat; decide,
        by show (2#32).toNat < (9#32).toNat; decide⟩, ?_⟩
    fin_cases hm <;> decide

/-- The verdict at `PT_J = r - 1` (R176, step 20), and the call below it (step 10). -/
theorem witness_SquaringStepJudgesOrCalls :
    (∀ j ∈ [0#5, 2#5], (running { testingAt .ptSq 9 1 3 0 with ptJ := j, ptM := 7#32 }).Inv) ∧
    (2#5).toNat = (3#5).toNat - 1 ∧ (0#5).toNat ≠ (3#5).toNat - 1 := by
  refine ⟨fun j hj => inv_of_running EngState.noConfusion
    ⟨inv_testing (res := 0#32) (by decide) (by decide) (by decide), ?_, by show (7#32).toNat < (9#32).toNat; decide⟩,
    by decide, by decide⟩
  fin_cases hj <;> decide

/-- The acceptance of MODPOW, and the completion of MODPOW. -/
theorem witness_BusyChangesOnlyForItsCauses :
    (∃ s t : State, s.Inv ∧ step s = .next t ∧ s.regs.busy = false ∧ t.regs.busy = true) ∧
    (∃ s t : State, s.Inv ∧ step s = .next t ∧ s.regs.busy = true ∧ t.regs.busy = false) := by
  refine ⟨⟨hosting [wr 0x3#4 1#32] (ready 4 13 497), _, inv_of_ready 4 13 497, rfl, rfl, rfl⟩,
    ⟨running (looping 445 151 0 497 .host), _, inv_of_running (by decide) ?_, rfl, rfl, rfl⟩⟩
  exact ⟨by decide, by decide, by decide, trivial⟩

/-- A rejection sets `DONE`, `ERR` and the code; the W1C write of 0xE clears them. -/
theorem witness_DoneAndErrorChangeOnlyForTheirCauses :
    (∃ s t : State, s.Inv ∧ step s = .next t ∧ s.regs.done = false ∧ t.regs.done = true ∧ s.regs.err = false ∧
      t.regs.err = true ∧ s.regs.errcode ≠ t.regs.errcode ∧ t.regs.errcode ≠ .none) ∧
    (∃ s t : State, s.Inv ∧ step s = .next t ∧ s.regs.done = true ∧ t.regs.done = false ∧ s.regs.err = true ∧
      t.regs.err = false ∧ s.regs.errcode ≠ .none ∧ t.regs.errcode = .none) := by
  refine ⟨⟨hosting [wr 0x3#4 0#32] (ready 0 0 0), _, inv_of_ready 0 0 0, rfl, rfl, rfl, rfl, rfl, by decide, by decide⟩,
    ⟨{ hosting [wr 0x2#4 0xE#32] (ready 0 0 0) with regs := { Regs.reset with done := true, err := true, errcode := .badOpcode } },
      _, ⟨by decide, ⟨by decide, by decide⟩, trivial⟩, rfl, rfl, rfl, rfl, rfl, by decide, rfl⟩⟩

theorem witness_OverrunFlagIsSticky :
    (∃ s t : State, step s = .next t ∧ s.regs.ovr = false ∧ t.regs.ovr = true ∧ s.regs.busy = true ∧ cmdPresented s = some 1#32) ∧
    (∃ s t : State, step s = .next t ∧ s.regs.ovr = true ∧ t.regs.ovr = false) :=
  ⟨⟨hosting [wr 0x3#4 1#32] (running (looping 4 256 3 497 .host)), _, rfl, rfl, rfl, rfl, rfl⟩,
    ⟨{ hosting [wr 0x2#4 8#32] (ready 0 0 0) with regs := { Regs.reset with ovr := true } }, _, rfl, rfl, rfl⟩⟩

theorem witness_ResultsChangeOnlyAtCompletion :
    ∃ s t : State, s.Inv ∧ step s = .next t ∧ resetPresented s = false ∧ ¬ (s.regs.busy = true ∧ t.regs.busy = false) ∧
      t.regs.done = true :=
  ⟨hosting [wr 0x3#4 0#32] (ready 0 0 0), _, inv_of_ready 0 0 0, rfl, rfl, by decide, rfl⟩

/-- A write of each of the four registers while a command runs. -/
theorem witness_HostRegistersChangeOnlyByTheirWrites :
    ∀ a ∈ [0x1#4, 0x4#4, 0x5#4, 0x6#4], let s := hosting [wr a 7#32] (running (looping 4 256 3 497 .host))
      resetPresented s = false ∧ writePresented a s = some 7#32 ∧ (nextOf? (step s)).isSome = true := by decide

theorem witness_RunningCommandIgnoresTheHost :
    let s := hosting [wr 0x4#4 7#32] (running (looping 445 151 0 497 .host))
    let s' := hosting [wr 0x3#4 1#32] (running (looping 445 151 0 497 .host))
    s.Inv ∧ s'.Inv ∧ s.regs.busy = true ∧ s.engine = s'.engine ∧ s.env.turns = s'.env.turns ∧ resetPresented s = false ∧
      resetPresented s' = false ∧ ∃ t t', step s = .next t ∧ step s' = .next t' ∧ t.regs.busy = false := by
  have h : (running (looping 445 151 0 497 .host)).Inv :=
    inv_of_running (by decide) ⟨by decide, by decide, by decide, trivial⟩
  exact ⟨h, h, rfl, rfl, rfl, rfl, rfl, _, _, rfl, rfl, rfl⟩

theorem witness_EveryStepKeepsInvariant :
    ∃ s t : State, s.Inv ∧ step s = .next t ∧ s.engine.state = .mpLoop ∧ t.engine.state = .mpLoop :=
  ⟨running (looping 4 256 3 497 .host), _, inv_of_running (by decide) ⟨by decide, by decide, by decide, trivial⟩, rfl, rfl, rfl⟩

/-- A completion with the verdict composite. -/
theorem witness_EveryStepKeepsResultsConsistent :
    ∃ s t : State, s.Inv ∧ s.regs.consistent ∧ step s = .next t ∧ t.regs.infoExit = .witness :=
  ⟨running { testingAt .ptSq 9 1 3 0 with ptJ := 2#5, ptM := 7#32 }, _,
    inv_of_running (by decide) ⟨inv_testing (res := 0#32) (by decide) (by decide) (by decide), by decide, by decide⟩,
    ⟨rfl, rfl, rfl, rfl⟩, rfl, rfl⟩

/-- An access at the first word of the window, through the mapping. -/
theorem witness_NoStopOutsideMappedAccesses :
    (∃ s : State, s.Inv ∧ ∀ r rest, s.env.host ≠ .mapped r :: rest) ∧
    (∃ x, mapAccess (.load Config.baseAddr 4) = .next x) := by
  refine ⟨⟨hosting [wr 0x3#4 1#32] (ready 4 13 497), inv_of_ready 4 13 497, by intro r rest; simp [hosting, State.withScript, wr]⟩, ?_⟩
  have h0 : Config.baseAddr % 4 = 0 := by simp only [Config.baseAddr, Config.windowBytes]; omega
  have h1 : ¬ (Config.baseAddr < Config.baseAddr ∨ Config.baseAddr + Config.windowBytes ≤ Config.baseAddr) := by
    simp only [Config.windowBytes]; omega
  refine ⟨{ we := false, addr := BitVec.ofNat 4 ((Config.baseAddr - Config.baseAddr) / 4), data := 0#32 }, ?_⟩
  simp only [mapAccess, mapAddr, h0, if_neg h1, ne_eq, not_true_eq_false, if_false]

theorem witness_EveryRunningCommandCompletes :
    (running (looping 4 256 3 497 .host)).Inv ∧ (running (looping 4 256 3 497 .host)).regs.busy = true :=
  ⟨inv_of_running (by decide) ⟨by decide, by decide, by decide, trivial⟩, rfl⟩

/-- Two machines that differ in a working register that IDLE makes dead. -/
theorem witness_DeadWorkingRegistersAreUnobservable :
    State.sameVisible State.reset { State.reset with engine := { Engine.reset with mpAcc := 7#64 } } ∧
      State.reset ≠ { State.reset with engine := { Engine.reset with mpAcc := 7#64 } } :=
  ⟨⟨rfl, rfl, rfl, trivial⟩, by decide⟩

theorem witness_ModpowComputesPower :
    let s := hosting [.wait 0x2#4 2#32 2#32, wr 0x4#4 7#32] (ready 4 13 497)
    s.regs.busy = false ∧ 1 ≤ s.regs.opm.toNat ∧ s.env.host.all HostOp.isTraffic = true := by decide

theorem witness_ModpowEngineStepCount :
    ∃ t, (ready 4 13 497).regs.busy = false ∧ 1 ≤ (ready 4 13 497).regs.opm.toNat ∧ exec .modpow (ready 4 13 497) = .next t :=
  ⟨_, rfl, by decide, rfl⟩

theorem witness_ModpowFermat :
    ∃ t, (ready 3 6 7).regs.busy = false ∧ Nat.Prime (ready 3 6 7).regs.opm.toNat ∧
      ¬ (ready 3 6 7).regs.opm.toNat ∣ (ready 3 6 7).regs.opa.toNat ∧
      (ready 3 6 7).regs.opb.toNat = (ready 3 6 7).regs.opm.toNat - 1 ∧ exec .modpow (ready 3 6 7) = .next t :=
  ⟨_, rfl, show Nat.Prime 7 by norm_num, by decide, by decide, rfl⟩

theorem witness_IsprimeComputesSequentialProgram :
    let s := hosting [.waitIrq] (ready 0xFFFFFFFF 0 0)
    s.regs.busy = false ∧ 2 ≤ s.regs.opa.toNat ∧ s.env.host.all HostOp.isTraffic = true := by decide

theorem witness_IsprimeShowsWholeVerdict : (ready 2 0 0).regs.busy = false ∧ 2 ≤ (ready 2 0 0).regs.opa.toNat := by decide

/-- 5, and the strong pseudoprime `2047 = 23 · 89` to base 2. -/
theorem witness_CompositeExactlyWhenSomeBaseWitnesses :
    ∀ n ∈ [5#32, 2047#32], (ready n 0 0).regs.busy = false ∧ 5 ≤ (ready n 0 0).regs.opa.toNat ∧
      (ready n 0 0).regs.opa.toNat % 2 = 1 ∧ (nextOf? (exec .isprime (ready n 0 0))).isSome = true := by
  intro n hn
  fin_cases hn <;> decide

theorem witness_PrimesAreNeverCalledComposite :
    ∃ t, (ready 61 0 0).regs.busy = false ∧ Nat.Prime (ready 61 0 0).regs.opa.toNat ∧
      exec .isprime (ready 61 0 0) = .next t :=
  ⟨_, rfl, show Nat.Prime 61 by norm_num, rfl⟩

theorem witness_EarlyTerminationOnlyAtPrimes :
    ∃ t, (ready 5 0 0).regs.busy = false ∧ 2 ≤ (ready 5 0 0).regs.opa.toNat ∧ exec .isprime (ready 5 0 0) = .next t :=
  ⟨_, rfl, by decide, rfl⟩

theorem witness_ModpowScriptStartsCommand :
    let s := hosting (ScriptItem.modpow 4 13 497).expand (ready 0 0 0)
    s.Inv ∧ s.regs.busy = false ∧ 1 ≤ (497#32).toNat ∧
      s.env.host = (ScriptItem.modpow (4#32).toNat (13#32).toNat (497#32).toNat).expand ++ [] :=
  ⟨inv_of_ready 0 0 0, rfl, by decide, rfl⟩

theorem witness_PollingEndsForEveryCommand :
    let s := hosting ScriptItem.waitDone.expand (ready 9 13 497)
    s.regs.busy = false ∧ 1 ≤ s.regs.opm.toNat ∧ 2 ≤ s.regs.opa.toNat ∧ s.env.host = ScriptItem.waitDone.expand ++ [] ∧
      (∃ t, exec .modpow s = .next t) ∧ ∃ t, exec .isprime s = .next t :=
  ⟨rfl, by decide, by decide, rfl, ⟨_, rfl⟩, ⟨_, rfl⟩⟩

/-- A misaligned access, one just above the window, and one at its first word. -/
theorem witness_MappedStepsAreAccesses :
    (∃ f, mapAccess (.load 1 4) = .refused f) ∧ (∃ f, mapAccess (.load (Config.baseAddr + 64) 4) = .fault f) ∧
    (∃ x, mapAccess (.load Config.baseAddr 4) = .next x) ∧
    (hosting [.mapped (.load 1 4)] (ready 0 0 0)).env.host = .mapped (.load 1 4) :: [] := by
  have h0 : (Config.baseAddr + 64) % 4 = 0 := by simp only [Config.baseAddr, Config.windowBytes]; omega
  have h1 : Config.baseAddr + 64 < Config.baseAddr ∨ Config.baseAddr + Config.windowBytes ≤ Config.baseAddr + 64 := .inr le_rfl
  refine ⟨⟨.misaligned, rfl⟩, ⟨.outsideWindow, ?_⟩, witness_NoStopOutsideMappedAccesses.2, rfl⟩
  simp only [mapAccess, mapAddr, h0, if_pos h1, ne_eq, not_true_eq_false, if_false]

end Sys2Proof.Machine.Tests
end

/-! ## The engine step and the invariant (10_state.md R41, R51) -/

namespace Sys2Proof.Machine

/-- The values a completion writes fit together as 10_state.md R36 to R40 say. -/
def Completion.Consistent (v : Completion) : Prop := (complete v State.reset).regs.consistent

/-- Whether result registers are consistent after a completion rests on the completion's values alone. -/
theorem complete_consistent_iff (v : Completion) (s : State) :
    (complete v s).regs.consistent ↔ v.Consistent := Iff.rfl

/-- An engine step's outcome is good: the engine still runs and keeps its invariant, or it goes to IDLE with a completion whose
values fit together. -/
def GoodNext (n : EngineNext) : Prop :=
  match n.2 with
  | none => n.1.state ≠ .idle ∧ n.1.Inv
  | some v => n.1.state = .idle ∧ v.Consistent

/-! The exponentiator -/

/-- `trunc_32` loses nothing of a remainder by a 32-bit modulus. -/
theorem trunc32_mod_toNat (x : DWord) {m : Word} (hm : 1 ≤ m.toNat) :
    (trunc32 (x % zext64 m)).toNat = x.toNat % m.toNat := by
  have hlt : x.toNat % m.toNat < 2 ^ 32 := lt_trans (Nat.mod_lt _ hm) m.isLt
  rw [trunc32_toNat, BitVec.toNat_umod, zext64_toNat, Nat.mod_eq_of_lt hlt]

theorem modMul_lt (x y : DWord) {m : Word} (hm : 1 ≤ m.toNat) : (modMul x y m).toNat < m.toNat := by
  rw [modMul, zext64_toNat, trunc32_mod_toNat _ hm]
  exact Nat.mod_lt _ hm

theorem modpowCompletion_consistent (c : Engine) : (modpowCompletion c).Consistent := ⟨rfl, rfl, rfl, rfl⟩

/-- A return to a caller that can rely on its registers, with a result below the modulus. -/
theorem returnTo_good {c : Engine} (hc : c.caller) (hres : c.mpRes.toNat < c.mpM.toNat) :
    GoodNext (returnTo c.mpRet c) := by
  unfold Engine.caller at hc
  cases hret : c.mpRet with
  | host => exact ⟨rfl, modpowCompletion_consistent c⟩
  | ptPowret =>
    rw [hret] at hc
    exact ⟨EngState.noConfusion, hc.1, hc.2 ▸ hres⟩
  | ptSqret =>
    rw [hret] at hc
    exact ⟨EngState.noConfusion, hc.1, hc.2 ▸ hres⟩

/-- A call with an exponent enters the loop with its bounds. -/
theorem mpCall_good {b e m : Word} {ret : RetTo} {c : Engine} (he : e ≠ 0#32) (hm : 1 ≤ m.toNat)
    (hc : (mpCall b e m ret c).1.caller) : GoodNext (mpCall b e m ret c) := by
  rw [mpCall, if_neg he] at hc ⊢
  have hone : (1#64).toNat < 2 ^ 32 := by decide
  have hbase : (zext64 b).toNat < 2 ^ 32 := (zext64_toNat b).trans_lt b.isLt
  exact ⟨EngState.noConfusion, hm, hone, hbase, hc⟩

theorem stepMpStart_good {c : Engine} {n : EngineNext} (hm : 1 ≤ c.wM.toNat) (h : stepMpStart c = .next n) : GoodNext n := by
  cases h
  by_cases he : c.wE = 0#32
  · rw [mpCall, if_pos he]
    exact ⟨rfl, modpowCompletion_consistent _⟩
  · exact mpCall_good he hm (by rw [mpCall, if_neg he]; trivial)

theorem stepMpLoop_good {c : Engine} {n : EngineNext} (hs : c.state = .mpLoop) (hi : c.Inv) (h : stepMpLoop c = .next n) :
    GoodNext n := by
  unfold Engine.Inv at hi
  rw [hs] at hi
  obtain ⟨hm, hacc, hb, hc⟩ := hi
  have hm0 : c.mpM ≠ 0#32 := fun e => by rw [e] at hm; exact absurd hm (by decide)
  rw [stepMpLoop, if_neg hm0] at h
  by_cases he : c.mpE = 0#32
  · rw [if_pos he] at h
    cases h
    refine returnTo_good (c := { c with mpRes := trunc32 (c.mpAcc % zext64 c.mpM) }) hc ?_
    exact (trunc32_mod_toNat _ hm).trans_lt (Nat.mod_lt _ hm)
  · rw [if_neg he] at h
    cases h
    have hlt (x y : DWord) : (modMul x y c.mpM).toNat < 2 ^ 32 := (modMul_lt x y hm).trans c.mpM.isLt
    have hacc' : (mpIterate c).mpAcc.toNat < 2 ^ 32 := by
      unfold mpIterate
      split
      · exact hlt _ _
      · exact hacc
    have hinv : (mpIterate c).Inv := by
      unfold Engine.Inv
      rw [show (mpIterate c).state = .mpLoop from hs]
      exact ⟨hm, hacc', hlt _ _, hc⟩
    exact ⟨by rw [show (mpIterate c).state = .mpLoop from hs]; decide, hinv⟩

/-! The witness engine -/

theorem sub_one_toNat {v : Word} (h : 1 ≤ v.toNat) : (v - 1#32).toNat = v.toNat - 1 := by
  rw [BitVec.toNat_sub]
  have := v.isLt
  simp
  omega

theorem stepPtStart_good {c : Engine} {n : EngineNext} (hn : 2 ≤ c.ptN.toNat) (h : stepPtStart c = .next n) : GoodNext n := by
  unfold stepPtStart at h
  split at h
  case isTrue => cases h; exact ⟨rfl, rfl, rfl, rfl, rfl, rfl⟩
  case isFalse hsmall =>
    split at h
    case isTrue => cases h; exact ⟨rfl, rfl, rfl, rfl, rfl, rfl⟩
    case isFalse hodd =>
      cases h
      have h3 : c.ptN.toNat ≠ 3 := fun e => hsmall (.inr (BitVec.eq_of_toNat_eq e))
      rw [getLsbD_zero_eq, decide_eq_false_iff_not, not_not] at hodd
      have hpred := sub_one_toNat (v := c.ptN) (by omega)
      exact ⟨EngState.noConfusion, hodd, show 5 ≤ c.ptN.toNat by omega, by simp [hpred]⟩

/-- One halving of an even `d` with `n - 1 = d · 2^r` keeps the product, and `r` does not wrap (42_isprime.md R162). -/
theorem halving_keeps_decomposing {c : Engine} (hc : c.decomposing) (heven : c.ptD.toNat % 2 = 0) :
    Engine.decomposing { c with ptD := c.ptD >>> 1, ptR := c.ptR + 1#5 } := by
  obtain ⟨hodd, h5, hprod⟩ := hc
  have hn := c.ptN.isLt
  have hhalf : c.ptD.toNat / 2 * 2 ^ (c.ptR.toNat + 1) = c.ptD.toNat * 2 ^ c.ptR.toNat := by
    rw [pow_succ', ← mul_assoc, Nat.div_mul_cancel (Nat.dvd_of_mod_eq_zero heven)]
  have hpos : 1 ≤ c.ptD.toNat / 2 := by
    rcases Nat.eq_zero_or_pos (c.ptD.toNat / 2) with h0 | h0
    · rw [h0] at hhalf; omega
    · exact h0
  have hpow : 2 ^ (c.ptR.toNat + 1) < 2 ^ 32 := by
    have := Nat.le_mul_of_pos_left (2 ^ (c.ptR.toNat + 1)) hpos
    omega
  have hr : c.ptR.toNat + 1 < 32 := (Nat.pow_lt_pow_iff_right (by norm_num)).mp hpow
  have hradd : (c.ptR + 1#5).toNat = c.ptR.toNat + 1 := by
    rw [BitVec.toNat_add]
    exact Nat.mod_eq_of_lt hr
  refine ⟨hodd, h5, ?_⟩
  show c.ptN.toNat - 1 = (c.ptD >>> 1).toNat * 2 ^ (c.ptR + 1#5).toNat
  rw [shiftRight_one_toNat, hradd, hhalf, hprod]

/-- With `d` odd and `n - 1 = d · 2^r` even, some halving was done. -/
theorem decomposed_of_odd {c : Engine} (hc : c.decomposing) (hd : c.ptD.toNat % 2 = 1) : c.decomposed := by
  refine ⟨hc, hd, ?_⟩
  obtain ⟨hodd, h5, hprod⟩ := hc
  rcases Nat.eq_zero_or_pos c.ptR.toNat with h0 | h0
  · rw [h0] at hprod; omega
  · exact h0

theorem stepPtDecomp_good {c : Engine} {n : EngineNext} (hs : c.state = .ptDecomp) (hc : c.decomposing)
    (h : stepPtDecomp c = .next n) : GoodNext n := by
  unfold stepPtDecomp at h
  simp only [getLsbD_zero_eq, decide_eq_false_iff_not] at h
  split at h
  case isTrue heven =>
    cases h
    have hinv := halving_keeps_decomposing hc (by omega)
    simp only [GoodNext, Engine.Inv, hs]
    exact ⟨EngState.noConfusion, hinv⟩
  case isFalse hodd =>
    cases h
    exact ⟨EngState.noConfusion, decomposed_of_odd hc (not_not.mp hodd)⟩

/-- The registers of a decomposition, once written to `DREG` and `RREG`, hold one. -/
theorem decomposed_holdsDecomposition {c : Engine} (hc : c.decomposed) {r : Regs} (hd : r.dreg = c.ptD) (hr : r.rreg = c.ptR) :
    r.holdsDecomposition := by
  obtain ⟨⟨hodd, h5, hprod⟩, hdodd, hr1⟩ := hc
  have := c.ptN.isLt
  rw [Regs.holdsDecomposition, hd, hr]
  exact ⟨hdodd, hr1, by omega, by omega⟩

theorem ne_zero_of_odd {v : Word} (h : v.toNat % 2 = 1) : v ≠ 0#32 := by
  rintro rfl
  exact absurd h (by decide)

theorem stepPtBase_good {c : Engine} {n : EngineNext} (hc : c.decomposed) (h : stepPtBase c = .next n) : GoodNext n := by
  have hdec {r : Regs} := decomposed_holdsDecomposition hc (r := r)
  unfold stepPtBase at h
  split at h
  case h_1 => cases h; exact ⟨rfl, rfl, hdec rfl rfl, rfl, rfl⟩
  case h_2 b hb =>
    split at h
    case isTrue hle =>
      cases h
      refine ⟨rfl, rfl, hdec rfl rfl, ?_, rfl⟩
      have h5 : 5 ≤ c.ptN.toNat := hc.1.2.1
      obtain ⟨-, he⟩ | ⟨hi, -⟩ | ⟨hi, -⟩ | ⟨-, he⟩ := baseAt_cases c.ptI
      · cases hb.symm.trans he
        exact absurd (BitVec.le_def.mp hle) (by rw [show (2#32).toNat = 2 from rfl]; omega)
      · exact .inl hi
      · exact .inr hi
      · cases hb.symm.trans he
    case isFalse hlt =>
      cases h
      have hd0 : c.ptD ≠ 0#32 := ne_zero_of_odd hc.2.1
      refine mpCall_good hd0 ((by norm_num : 1 ≤ 5).trans hc.1.2.1) ?_
      rw [mpCall, if_neg hd0]
      refine ⟨⟨hc, ?_⟩, rfl⟩
      simpa [Engine.baseBelow, hb] using hlt

/-- The base loop goes on with the same decomposition. -/
theorem nextBase_good {c : Engine} (hc : c.decomposed) : GoodNext (nextBase c, none) := ⟨EngState.noConfusion, hc⟩

theorem stepPtPowret_good {c : Engine} {n : EngineNext} (hc : c.testing) (hres : c.mpRes.toNat < c.ptN.toNat)
    (h : stepPtPowret c = .next n) : GoodNext n := by
  simp only [stepPtPowret] at h
  split at h
  case isTrue => cases h; exact nextBase_good hc.1
  case isFalse => cases h; exact ⟨EngState.noConfusion, hc, (Nat.zero_add 1).le.trans hc.1.2.2, hres⟩

theorem testing_base {c : Engine} (hc : c.testing) : ∃ b, baseAt c.ptI = some b ∧ b.toNat < c.ptN.toNat := by
  have hb := hc.2
  unfold Engine.baseBelow at hb
  split at hb
  case h_1 b hb' => exact ⟨b, hb', BitVec.lt_def.mp (of_decide_eq_true hb)⟩
  case h_2 => cases hb

/-- The count of bases and the base that a verdict of compositeness reports belong together (42_isprime.md R165). -/
theorem baseList_of_baseAt {i : BitVec 2} {b : Word} (h : baseAt i = some b) :
    baseList[(i + 1#2).toNat - 1]? = some b.toNat ∧ 1 ≤ (i + 1#2).toNat := by
  obtain ⟨rfl, he⟩ | ⟨rfl, he⟩ | ⟨rfl, he⟩ | ⟨-, he⟩ := baseAt_cases i <;> cases h.symm.trans he <;> decide

theorem stepPtSq_good {c : Engine} {n : EngineNext} (hc : c.testing) (hj : c.ptJ.toNat + 1 ≤ c.ptR.toNat)
    (hm : c.ptM.toNat < c.ptN.toNat) (h : stepPtSq c = .next n) : GoodNext n := by
  unfold stepPtSq at h
  split at h
  case isTrue =>
    split at h
    case h_1 => cases h
    case h_2 b hb =>
      cases h
      exact ⟨rfl, rfl, decomposed_holdsDecomposition hc.1 rfl rfl, baseList_of_baseAt hb⟩
  case isFalse hne =>
    cases h
    have h2 : (2#32 : Word) ≠ 0#32 := by decide
    refine mpCall_good h2 (by omega) ?_
    rw [mpCall, if_neg h2]
    exact ⟨⟨hc, show c.ptJ.toNat + 2 ≤ c.ptR.toNat by omega, hm⟩, rfl⟩

theorem stepPtSqret_good {c : Engine} {n : EngineNext} (hc : c.squaring) (hres : c.mpRes.toNat < c.ptN.toNat)
    (h : stepPtSqret c = .next n) : GoodNext n := by
  obtain ⟨htest, hj, -⟩ := hc
  have hr := c.ptR.isLt
  have hjadd : (c.ptJ + 1#5).toNat = c.ptJ.toNat + 1 := by
    rw [BitVec.toNat_add]
    exact Nat.mod_eq_of_lt (show c.ptJ.toNat + 1 < 2 ^ 5 by omega)
  simp only [stepPtSqret] at h
  split at h
  case isTrue => cases h; exact nextBase_good htest.1
  case isFalse =>
    cases h
    exact ⟨EngState.noConfusion, htest, show (c.ptJ + 1#5).toNat + 1 ≤ c.ptR.toNat by omega, hres⟩

/-- Every engine step of a running engine in its invariant is good (10_state.md R51). -/
theorem coreStep_good {c : Engine} {n : EngineNext} (hr : c.state ≠ .idle) (hi : c.Inv) (h : coreStep c = .next n) :
    GoodNext n := by
  have hinv := hi
  unfold Engine.Inv at hi
  unfold coreStep at h
  cases hs : c.state <;> simp only [hs] at h hi
  case idle => exact absurd hs hr
  case mpStart => exact stepMpStart_good hi h
  case mpLoop => exact stepMpLoop_good hs hinv h
  case ptStart => exact stepPtStart_good hi h
  case ptDecomp => exact stepPtDecomp_good hs hi h
  case ptBase => exact stepPtBase_good hi h
  case ptPowret => exact stepPtPowret_good hi.1 hi.2 h
  case ptSq => exact stepPtSq_good hi.1 hi.2.1 hi.2.2 h
  case ptSqret => exact stepPtSqret_good hi.1 hi.2 h

end Sys2Proof.Machine

/-! ## What a cycle can do -/

namespace Sys2Proof.Machine

/-- The access that writes a word to a register (10_state.md R21, R22). -/
def writeOf (r : RegName) (v : Word) : Option Xact := some { we := true, addr := r.index, data := v }

/-- The word an access writes at a word index, if it writes one. -/
def wordWritten (a : BitVec 4) (x : Option Xact) : Option Word :=
  match x with
  | none => none
  | some x => if x.we = true ∧ x.addr = a then some x.data else none

theorem RegName.index_inj {r r' : RegName} : r.index = r'.index ↔ r = r' := by
  refine ⟨fun h => ?_, congrArg _⟩
  have := ofIndex_index r
  rw [h, ofIndex_index] at this
  exact (Option.some.inj this).symm

@[simp] theorem wordWritten_writeOf (r r' : RegName) (v : Word) :
    wordWritten r'.index (writeOf r v) = if r = r' then some v else none := by
  simp [wordWritten, writeOf, RegName.index_inj]

theorem wordWritten_eq_some_iff {r : RegName} {x : Option Xact} {v : Word} :
    wordWritten r.index x = some v ↔ x = writeOf r v := by
  obtain - | ⟨we, addr, data⟩ := x
  · simp [wordWritten, writeOf]
  · simp [wordWritten, writeOf, and_assoc]

/-- Everything an access of the port can do to the block (20_memory.md R61, R66; 40_command_dispatch.md R100): the state after
it, with the access and the conditions that lead there. -/
inductive AccessEffect (x : Option Xact) (s : State) : State → Prop
  | ignored (h : ∀ r ∈ [RegName.ctrl, .status, .cmd, .opa, .opb, .opm], wordWritten r.index x = none) : AccessEffect x s s
  | ctrl (v : Word) (hx : x = writeOf .ctrl v) : AccessEffect x s (writeCtrl v s)
  | status (v : Word) (hx : x = writeOf .status v) : AccessEffect x s (acknowledge v s)
  | opa (v : Word) (hx : x = writeOf .opa v) : AccessEffect x s (writeOpa v s)
  | opb (v : Word) (hx : x = writeOf .opb v) : AccessEffect x s (writeOpb v s)
  | opm (v : Word) (hx : x = writeOf .opm v) : AccessEffect x s (writeOpm v s)
  | overrun (v : Word) (hx : x = writeOf .cmd v) (hb : s.regs.busy = true) : AccessEffect x s (overrun s)
  | reject (v : Word) (e : ErrCode) (hx : x = writeOf .cmd v) (hb : s.regs.busy = false) (he : e ≠ .none) :
      AccessEffect x s (reject e s)
  | acceptModpow (v : Word) (hx : x = writeOf .cmd v) (hb : s.regs.busy = false) (hv : v.toNat = 1)
      (hm : 1 ≤ s.regs.opm.toNat) : AccessEffect x s (acceptModpow s)
  | acceptIsprime (v : Word) (hx : x = writeOf .cmd v) (hb : s.regs.busy = false) (hv : v.toNat = 2)
      (hn : 2 ≤ s.regs.opa.toNat) : AccessEffect x s (acceptIsprime s)

theorem commandWrite_effect {v : Word} {s t : State} (h : commandWrite v s = .next t) :
    AccessEffect (writeOf .cmd v) s t := by
  obtain ⟨hb, e⟩ | ⟨hb, ⟨c, hc, e⟩ | ⟨hv, hm, e⟩ | ⟨hv, hn, e⟩⟩ := commandWrite_cases v s
  · cases h.symm.trans e; exact .overrun v rfl hb
  · cases h.symm.trans e; exact .reject v c rfl hb hc
  · cases h.symm.trans e; exact .acceptModpow v rfl hb hv hm
  · cases h.symm.trans e; exact .acceptIsprime v rfl hb hv hn

theorem busWrite_effect {a : BitVec 4} {v : Word} {s t : State} (h : busWrite a v s = .next t) :
    AccessEffect (some { we := true, addr := a, data := v }) s t := by
  obtain ⟨rfl, e⟩ | ⟨rfl, e⟩ | ⟨rfl, e⟩ | ⟨rfl, e⟩ | ⟨rfl, e⟩ | ⟨rfl, e⟩ | ⟨ha, e⟩ := busWrite_cases a v s
  · cases h.symm.trans e; exact .ctrl v rfl
  · cases h.symm.trans e; exact .status v rfl
  · exact commandWrite_effect (e.symm.trans h)
  · cases h.symm.trans e; exact .opa v rfl
  · cases h.symm.trans e; exact .opb v rfl
  · cases h.symm.trans e; exact .opm v rfl
  · cases h.symm.trans e
    refine .ignored fun r hr => ?_
    have hne : a ≠ r.index := by
      rintro rfl
      revert ha
      fin_cases hr <;> decide
    simp [wordWritten, hne]

theorem busAccess_effect {x : Option Xact} {s t : State} (h : busAccess x s = .next t) : AccessEffect x s t := by
  obtain - | ⟨we, addr, data⟩ := x
  · cases h; exact .ignored fun _ _ => rfl
  · cases we
    · cases h; exact .ignored fun _ _ => rfl
    · exact busWrite_effect h

/-- Everything the engine's part of a cycle can do: nothing, a step within the command, or the step that completes it. -/
inductive EngineEffect (turn : Bool) (s : State) : State → Prop
  | held (hturn : turn = false) : EngineEffect turn s s
  | moved (c : Engine) (hturn : turn = true) (hc : coreStep s.engine = .next (c, none)) :
      EngineEffect turn s { s with engine := c }
  | completed (c : Engine) (v : Completion) (hturn : turn = true) (hc : coreStep s.engine = .next (c, some v)) :
      EngineEffect turn s (complete v { s with engine := c })

/-- Everything a step can do (20_memory.md R71; 70_reset_and_hazards.md R230): a reset edge, or the access on the state the
environment has moved past, and then the engine's part. -/
inductive StepEffect (s : State) : State → Prop
  | reset (p : PortIn) (hr : resetPresented s = true) (hw : ∀ a, writePresented a s = none) :
      StepEffect s (resetEdge (advance p s))
  | clocked (p : PortIn) (u t : State) (hr : resetPresented s = false)
      (hw : ∀ a, writePresented a s = wordWritten a p.access) (ha : AccessEffect p.access (advance p s) u)
      (he : EngineEffect (engineTurn s) u t) : StepEffect s t

theorem resetPresented_eq {s : State} {p : PortIn} (hp : portIn s = .next p) : resetPresented s = p.rst := by
  rw [resetPresented, hp]

theorem writePresented_eq {s : State} {p : PortIn} (hp : portIn s = .next p) (hr : p.rst = false) (a : BitVec 4) :
    writePresented a s = wordWritten a p.access := by
  obtain ⟨rst, access⟩ := p
  cases hr
  rw [writePresented, hp]
  cases access <;> rfl

theorem writePresented_of_reset {s : State} {p : PortIn} (hp : portIn s = .next p) (hr : p.rst = true) (a : BitVec 4) :
    writePresented a s = none := by
  obtain ⟨rst, access⟩ := p
  cases hr
  rw [writePresented, hp]

theorem step_effect {s t : State} (h : step s = .next t) : StepEffect s t := by
  obtain ⟨p, hp, ⟨hr, rfl⟩ | ⟨hr, u, hu, hturn⟩⟩ := step_cases h
  · exact .reset p ((resetPresented_eq hp).trans hr) (writePresented_of_reset hp hr)
  · refine .clocked p u t ((resetPresented_eq hp).trans hr) (writePresented_eq hp hr) (busAccess_effect hu) ?_
    obtain ⟨hturn, he⟩ | ⟨hturn, rfl⟩ := hturn
    · obtain ⟨c, ⟨hc, rfl⟩ | ⟨v, hc, rfl⟩⟩ := engineStep_cases he
      · exact .moved c hturn hc
      · exact .completed c v hturn hc
    · exact .held hturn

/-! The invariant's parts, and what a cycle keeps of them -/

/-- A running engine holds `BUSY` (10_state.md R27). -/
theorem State.Inv.busy_of_turn {s : State} (h : s.Inv) (hturn : engineTurn s = true) : s.regs.busy = true :=
  h.1.mpr (engineTurn_running hturn)

theorem State.Inv.idle_of_not_busy {s : State} (h : s.Inv) (hb : s.regs.busy = false) : s.engine.state = .idle := by
  by_contra hne
  exact Bool.false_ne_true (hb.symm.trans (h.1.mpr hne))

/-- A running command's access leaves the engine alone, and `BUSY` set (10_state.md R44). -/
theorem AccessEffect.engine_of_busy {x : Option Xact} {s u : State} (h : AccessEffect x s u) (hb : s.regs.busy = true) :
    u.engine = s.engine ∧ u.regs.busy = true := by
  cases h with
  | reject _ _ _ hb' | acceptModpow _ _ hb' | acceptIsprime _ _ hb' => exact absurd (hb'.symm.trans hb) Bool.false_ne_true
  | ignored | ctrl | status | opa | opb | opm | overrun => exact ⟨rfl, hb⟩

/-- The flags' part of the invariant survives the acknowledge, whatever it clears (10_state.md R26, R31). -/
theorem Regs.Inv.statusW1C {r : Regs} (h : r.Inv) (v : Word) : (r.statusW1C v).Inv := by
  obtain ⟨herr, hbusy⟩ := h
  constructor
  · intro hc
    rw [Regs.statusW1C_errcode] at hc
    split at hc
    case isTrue => exact absurd rfl hc
    case isFalse hv =>
      rw [Regs.statusW1C_err, herr hc, Bool.eq_false_of_not_eq_true hv]
      rfl
  · intro hb
    obtain ⟨hd, he⟩ := hbusy hb
    simp [hd, he]

/-- An access keeps the invariant (10_state.md R27, R31, R51). -/
theorem AccessEffect.keeps_inv {x : Option Xact} {s u : State} (h : AccessEffect x s u) (hi : s.Inv) : u.Inv := by
  obtain ⟨hbusy, hregs, heng⟩ := hi
  cases h with
  | ignored | ctrl | opa | opb | opm | overrun => exact ⟨hbusy, hregs, heng⟩
  | status v => exact ⟨hbusy, hregs.statusW1C v, heng⟩
  | reject _ _ _ hb =>
    exact ⟨hbusy, ⟨fun _ => rfl, fun hb' => absurd (hb.symm.trans hb') Bool.false_ne_true⟩, heng⟩
  | acceptModpow _ _ _ _ hm => exact ⟨by simp, ⟨by simp, by simp⟩, hm⟩
  | acceptIsprime _ _ _ _ hn => exact ⟨by simp, ⟨by simp, by simp⟩, hn⟩

theorem Engine.inv_of_idle {c : Engine} (h : c.state = .idle) : c.Inv := by
  rw [Engine.Inv, h]
  trivial

/-- The engine's part keeps the invariant. -/
theorem EngineEffect.keeps_inv {turn : Bool} {s t : State} (h : EngineEffect turn s t) (hi : s.Inv)
    (hrun : turn = true → s.engine.state ≠ .idle) : t.Inv := by
  obtain ⟨hbusy, hregs, heng⟩ := hi
  cases h with
  | held => exact ⟨hbusy, hregs, heng⟩
  | moved c hturn hc =>
    obtain ⟨hstate, hinv⟩ := coreStep_good (hrun hturn) heng hc
    exact ⟨iff_of_true (hbusy.mpr (hrun hturn)) hstate, hregs, hinv⟩
  | completed c v hturn hc =>
    obtain ⟨hstate, -⟩ := coreStep_good (hrun hturn) heng hc
    exact ⟨iff_of_false (by simp) (not_not.mpr hstate), ⟨hregs.1, by simp⟩, Engine.inv_of_idle hstate⟩

/-- The engine still runs after the access of a cycle in which it takes a step. -/
theorem State.Inv.running_after_access {s u : State} {p : PortIn} (hi : s.Inv)
    (ha : AccessEffect p.access (advance p s) u) (hturn : engineTurn s = true) : u.engine.state ≠ .idle := by
  rw [(ha.engine_of_busy (hi.busy_of_turn hturn)).1, advance_engine]
  exact engineTurn_running hturn

theorem inv_of_reset (e : Env) : State.Inv { State.reset with env := e } :=
  ⟨by simp, ⟨by simp, by simp⟩, trivial⟩

theorem step_keeps_inv {s t : State} (hi : s.Inv) (h : step s = .next t) : t.Inv := by
  cases step_effect h with
  | reset p => exact inv_of_reset _
  | clocked p u _ _ _ ha he =>
    exact he.keeps_inv (ha.keeps_inv (s := advance p s) hi) (hi.running_after_access ha)

/-! The lines of 10_state.md R51, from the invariant -/

theorem Engine.Inv.testing {c : Engine} (h : c.Inv) (hs : c.state ∈ [EngState.ptPowret, .ptSq, .ptSqret]) : c.testing := by
  unfold Engine.Inv at h
  simp only [List.mem_cons, List.not_mem_nil, or_false] at hs
  obtain e | e | e := hs <;> rw [e] at h
  · exact h.1
  · exact h.1
  · exact h.1.1

theorem Engine.Inv.decomposed {c : Engine} (h : c.Inv) (hs : c.state ∈ [EngState.ptBase, .ptPowret, .ptSq, .ptSqret]) :
    c.decomposed := by
  obtain e | hs := List.mem_cons.mp hs
  · simpa only [Engine.Inv, e] using h
  · exact (h.testing hs).1

theorem Engine.Inv.decomposing {c : Engine} (h : c.Inv)
    (hs : c.state ∈ [EngState.ptDecomp, .ptBase, .ptPowret, .ptSq, .ptSqret]) : c.decomposing := by
  obtain e | hs := List.mem_cons.mp hs
  · simpa only [Engine.Inv, e] using h
  · exact (h.decomposed hs).1

/-- A base under test exists and is below `n` (10_state.md R51). -/
theorem Engine.testing.base {c : Engine} (h : c.testing) :
    c.ptI.toNat ≤ 2 ∧ ∃ b, baseAt c.ptI = some b ∧ b.toNat < c.ptN.toNat := by
  obtain ⟨b, hb, hlt⟩ := testing_base h
  refine ⟨?_, b, hb, hlt⟩
  obtain ⟨hi, -⟩ | ⟨hi, -⟩ | ⟨hi, -⟩ | ⟨-, he⟩ := baseAt_cases c.ptI
  · rw [hi]; decide
  · rw [hi]; decide
  · rw [hi]; decide
  · cases hb.symm.trans he

theorem State.Inv.edgeFacts {s : State} (h : s.Inv) : s.edgeFacts := by
  obtain ⟨hbusy, hregs, heng⟩ := h
  refine ⟨hbusy, hregs.1, fun hs => ?_, heng.decomposing, fun hs => (heng.decomposed hs).2,
    fun hs => (heng.testing hs).base, fun hs => ?_, fun hs => ?_⟩
  · simp only [Engine.Inv, hs] at heng
    exact ⟨heng.1, heng.2.1, heng.2.2.1⟩
  · simp only [Engine.Inv, hs] at heng
    exact Nat.le_sub_one_of_lt heng.2.1
  · simp only [List.mem_cons, List.not_mem_nil, or_false] at hs
    obtain e | e := hs <;> simp only [Engine.Inv, e] at heng
    · exact heng.2.2
    · exact heng.1.2.2

/-- Settles O41: every access and every engine step keeps the invariant, and the lines of R51 are parts of it. -/
theorem everyStepKeepsInvariant : Obligations.EveryStepKeepsInvariant := fun _ _ hi h =>
  have ht := step_keeps_inv hi h
  ⟨ht, ht.edgeFacts⟩

/-- Settles O40: the base case of O41 and O42. -/
theorem invariantAtReset : Obligations.InvariantAtReset :=
  have hi := inv_of_reset Env.quiet
  ⟨hi, ⟨rfl, rfl, rfl, rfl⟩, hi.edgeFacts⟩

/-! The result registers -/

/-- The result and diagnostic registers of two states are equal (10_state.md R36 to R40). -/
def Regs.SameResults (r r' : Regs) : Prop :=
  r.result = r'.result ∧ r.dreg = r'.dreg ∧ r.rreg = r'.rreg ∧ r.infoExit = r'.infoExit ∧ r.infoBt = r'.infoBt ∧
    r.witness = r'.witness

theorem AccessEffect.sameResults {x : Option Xact} {s u : State} (h : AccessEffect x s u) : u.regs.SameResults s.regs := by
  cases h <;> exact ⟨rfl, rfl, rfl, rfl, rfl, rfl⟩

theorem Regs.SameResults.consistent {r r' : Regs} (h : r.SameResults r') (hc : r'.consistent) : r.consistent := by
  obtain ⟨hres, hd, hr, hexit, hbt, hw⟩ := h
  simpa only [Regs.consistent, Regs.holdsDecomposition, hres, hd, hr, hexit, hbt, hw] using hc

theorem completion_consistent {s : State} {c : Engine} {v : Completion} (hi : s.Inv) (hrun : s.engine.state ≠ .idle)
    (hc : coreStep s.engine = .next (c, some v)) : v.Consistent :=
  (coreStep_good hrun hi.2.2 hc).2

theorem step_keeps_consistent {s t : State} (hi : s.Inv) (hcon : s.regs.consistent) (h : step s = .next t) :
    t.regs.consistent := by
  cases step_effect h with
  | reset => exact ⟨rfl, rfl, rfl, rfl⟩
  | clocked p u _ _ _ ha he =>
    have hu : u.regs.consistent := ha.sameResults.consistent hcon
    cases he with
    | held => exact hu
    | moved => exact hu
    | completed c v hturn hc =>
      have hinv : u.Inv := ha.keeps_inv (s := advance p s) hi
      exact (complete_consistent_iff v _).mpr (completion_consistent hinv (hi.running_after_access ha hturn) hc)

/-- Settles O42: only completions write the result registers, and the values of each fit together. -/
theorem everyStepKeepsResultsConsistent : Obligations.EveryStepKeepsResultsConsistent :=
  fun _ _ hi hcon h => step_keeps_consistent hi hcon h

end Sys2Proof.Machine

/-! ## Working registers that nothing will read (10_state.md R50) -/

namespace Sys2Proof.Machine

/-- The outcomes of an engine step on two engines that differ in dead registers at most: the same stop, or engines that again
differ in dead registers at most, with the same completion. -/
def relatedNext (a b : Host.Outcome EngineNext Fault Refusal) : Prop :=
  match a, b with
  | .next m, .next n => m.1.sameLive n.1 ∧ m.2 = n.2
  | .fault f, .fault g => f = g
  | .refused f, .refused g => f = g
  | _, _ => False

/-- The registers that the caller of the exponentiator reads after the return (41_modpow.md R127). -/
def Engine.sameForCaller (ret : RetTo) (c d : Engine) : Prop :=
  match ret with
  | .host => True
  | .ptPowret => c.sameBase d
  | .ptSqret => c.sameBase d ∧ c.ptJ = d.ptJ

theorem returnTo_related {ret : RetTo} {c d : Engine} (hc : c.sameForCaller ret d) (hres : c.mpRes = d.mpRes) :
    relatedNext (.next (returnTo ret c)) (.next (returnTo ret d)) := by
  cases ret with
  | host => exact ⟨⟨rfl, trivial⟩, by simp [returnTo, modpowCompletion, hres]⟩
  | ptPowret => exact ⟨⟨rfl, hc, hres⟩, rfl⟩
  | ptSqret => exact ⟨⟨rfl, hc.1, hc.2, hres⟩, rfl⟩

theorem mpCall_related {b e m : Word} {ret : RetTo} {c d : Engine} (hc : c.sameForCaller ret d) :
    relatedNext (.next (mpCall b e m ret c)) (.next (mpCall b e m ret d)) := by
  unfold mpCall
  split
  case isTrue => exact returnTo_related (c := { c with mpRes := 1#32 }) (d := { d with mpRes := 1#32 }) hc rfl
  case isFalse => exact ⟨⟨rfl, rfl, rfl, rfl, rfl, rfl, by cases ret <;> exact hc⟩, rfl⟩

theorem stepMpStart_related {c d : Engine} (h : c.wA = d.wA ∧ c.wE = d.wE ∧ c.wM = d.wM) :
    relatedNext (stepMpStart c) (stepMpStart d) := by
  obtain ⟨ha, he, hm⟩ := h
  rw [stepMpStart, stepMpStart, ← ha, ← he, ← hm]
  exact mpCall_related trivial

theorem stepMpLoop_related {c d : Engine} (hs : c.state = .mpLoop) (h : c.sameLive d) :
    relatedNext (stepMpLoop c) (stepMpLoop d) := by
  have hlive := h
  unfold Engine.sameLive at h
  rw [hs] at h
  obtain ⟨hsd, hacc, hb, he, hm, hret, hcall⟩ := h
  have hcall : c.sameForCaller c.mpRet d := by
    cases hr : c.mpRet <;> rw [hr] at hcall <;> exact hcall
  rw [stepMpLoop, stepMpLoop, ← hm, ← he, ← hacc, ← hret]
  split
  case isTrue => rfl
  case isFalse =>
    split
    case isTrue => exact returnTo_related (by exact hcall) rfl
    case isFalse =>
      refine ⟨⟨hs.trans hsd, ?_⟩, rfl⟩
      rw [show (mpIterate c).state = .mpLoop from hs]
      refine ⟨?_, ?_, ?_, hm, hret, hcall⟩
      · simp only [mpIterate, hacc, hb, he, hm]
      · simp only [mpIterate, hb, hm]
      · simp only [mpIterate, he]

theorem stepPtStart_related {c d : Engine} (hn : c.ptN = d.ptN) : relatedNext (stepPtStart c) (stepPtStart d) := by
  rw [stepPtStart, stepPtStart, ← hn]
  split
  case isTrue => exact ⟨⟨rfl, trivial⟩, rfl⟩
  case isFalse =>
    split
    case isTrue => exact ⟨⟨rfl, trivial⟩, rfl⟩
    case isFalse => exact ⟨⟨rfl, rfl, rfl, rfl⟩, rfl⟩

theorem stepPtDecomp_related {c d : Engine} (hs : c.state = .ptDecomp) (hsd : c.state = d.state)
    (h : c.ptN = d.ptN ∧ c.ptD = d.ptD ∧ c.ptR = d.ptR) : relatedNext (stepPtDecomp c) (stepPtDecomp d) := by
  obtain ⟨hn, hd, hr⟩ := h
  rw [stepPtDecomp, stepPtDecomp, ← hd, ← hr]
  split
  case isTrue =>
    refine ⟨⟨hsd, ?_⟩, rfl⟩
    rw [show Engine.state { c with ptD := c.ptD >>> 1, ptR := c.ptR + 1#5 } = .ptDecomp from hs]
    exact ⟨hn, rfl, rfl⟩
  case isFalse => exact ⟨⟨rfl, hn, rfl, rfl, rfl⟩, rfl⟩

theorem stepPtBase_related {c d : Engine} (h : c.sameBase d) : relatedNext (stepPtBase c) (stepPtBase d) := by
  obtain ⟨hn, hd, hr, hi⟩ := h
  rw [stepPtBase, stepPtBase, ← hn, ← hd, ← hr, ← hi]
  split
  case h_1 => exact ⟨⟨rfl, trivial⟩, rfl⟩
  case h_2 =>
    split
    case isTrue => exact ⟨⟨rfl, trivial⟩, rfl⟩
    case isFalse => exact mpCall_related (ret := .ptPowret) ⟨hn, hd, hr, hi⟩

theorem nextBase_related {c d : Engine} (h : c.sameBase d) :
    relatedNext (.next (nextBase c, none)) (.next (nextBase d, none)) := by
  obtain ⟨hn, hd, hr, hi⟩ := h
  exact ⟨⟨rfl, hn, hd, hr, congrArg (· + 1#2) hi⟩, rfl⟩

theorem stepPtPowret_related {c d : Engine} (h : c.sameBase d ∧ c.mpRes = d.mpRes) :
    relatedNext (stepPtPowret c) (stepPtPowret d) := by
  obtain ⟨hb, hres⟩ := h
  simp only [stepPtPowret, ← hres, ← hb.1]
  split
  case isTrue => exact nextBase_related ⟨rfl, hb.2⟩
  case isFalse => exact ⟨⟨rfl, ⟨rfl, hb.2⟩, rfl, rfl⟩, rfl⟩

theorem stepPtSq_related {c d : Engine} (h : c.sameBase d ∧ c.ptJ = d.ptJ ∧ c.ptM = d.ptM) :
    relatedNext (stepPtSq c) (stepPtSq d) := by
  obtain ⟨⟨hn, hd, hr, hi⟩, hj, hm⟩ := h
  rw [stepPtSq, stepPtSq, ← hn, ← hd, ← hr, ← hi, ← hj, ← hm]
  split
  case isTrue =>
    split
    case h_1 => rfl
    case h_2 => exact ⟨⟨rfl, trivial⟩, rfl⟩
  case isFalse => exact mpCall_related (ret := .ptSqret) ⟨⟨hn, hd, hr, hi⟩, hj⟩

theorem stepPtSqret_related {c d : Engine} (h : c.sameBase d ∧ c.ptJ = d.ptJ ∧ c.mpRes = d.mpRes) :
    relatedNext (stepPtSqret c) (stepPtSqret d) := by
  obtain ⟨hb, hj, hres⟩ := h
  simp only [stepPtSqret, ← hres, ← hj, ← hb.1]
  split
  case isTrue => exact nextBase_related ⟨rfl, hb.2⟩
  case isFalse => exact ⟨⟨rfl, ⟨rfl, hb.2⟩, rfl, rfl⟩, rfl⟩

/-- An engine step reads only live registers, and writes every register that it makes live. -/
theorem coreStep_related {c d : Engine} (h : c.sameLive d) : relatedNext (coreStep c) (coreStep d) := by
  have hlive := h
  obtain ⟨hsd, h⟩ := h
  rw [coreStep, coreStep, ← hsd]
  cases hs : c.state <;> simp only [hs] at h
  case idle => exact ⟨hlive, rfl⟩
  case mpStart => exact stepMpStart_related h
  case mpLoop => exact stepMpLoop_related hs hlive
  case ptStart => exact stepPtStart_related h
  case ptDecomp => exact stepPtDecomp_related hs hsd h
  case ptBase => exact stepPtBase_related h
  case ptPowret => exact stepPtPowret_related h
  case ptSq => exact stepPtSq_related h
  case ptSqret => exact stepPtSqret_related h

/-! The block -/

theorem settle_related {m n : EngineNext} {s t : State} (hn : m.1.sameLive n.1 ∧ m.2 = n.2) (h : s.sameVisible t) :
    (settle m s).sameVisible (settle n t) := by
  obtain ⟨c, o⟩ := m
  obtain ⟨d, o'⟩ := n
  obtain ⟨hlive, rfl⟩ := hn
  obtain ⟨hregs, henv, -⟩ := h
  cases o with
  | none => exact ⟨hregs, henv, hlive⟩
  | some v => exact ⟨by simp [settle, complete, hregs], henv, hlive⟩

theorem engineStep_related {s t : State} (h : s.sameVisible t) : relatedBy State.sameVisible (engineStep s) (engineStep t) := by
  have hcore := coreStep_related h.2.2
  unfold engineStep
  cases hc : coreStep s.engine <;> cases hd : coreStep t.engine <;> rw [hc, hd] at hcore
  case next.next => exact settle_related hcore h
  all_goals exact hcore

theorem andThen_related {a b : Result} {f g : State → Result} (hab : relatedBy State.sameVisible a b)
    (hfg : ∀ s t, s.sameVisible t → relatedBy State.sameVisible (f s) (g t)) :
    relatedBy State.sameVisible (andThen a f) (andThen b g) := by
  cases a with
  | next s =>
    cases b with
    | next t => exact hfg s t hab
    | fault | refused => exact False.elim hab
  | fault f =>
    cases b with
    | fault g => exact hab
    | next | refused => exact False.elim hab
  | refused f =>
    cases b with
    | refused g => exact hab
    | next | fault => exact False.elim hab

theorem exec_modpow_eq (s : State) :
    exec .modpow s = if s.regs.busy then .next (overrun s)
      else if s.regs.opm = 0#32 then .next (reject .modZero s) else .next (acceptModpow s) := rfl

theorem exec_isprime_eq (s : State) :
    exec .isprime s = if s.regs.busy then .next (overrun s)
      else if s.regs.opa < 2#32 then .next (reject .nLt2 s) else .next (acceptIsprime s) := rfl

theorem overrun_related {s t : State} (h : s.sameVisible t) : (overrun s).sameVisible (overrun t) :=
  ⟨congrArg Regs.flagsOverrun h.1, h.2⟩

theorem reject_related (e : ErrCode) {s t : State} (h : s.sameVisible t) : (reject e s).sameVisible (reject e t) :=
  ⟨congrArg (Regs.flagsReject e) h.1, h.2⟩

/-- Acceptance writes every register the command's first state reads (40_command_dispatch.md R111). -/
theorem acceptModpow_related {s t : State} (h : s.sameVisible t) : (acceptModpow s).sameVisible (acceptModpow t) :=
  ⟨congrArg Regs.flagsAccept h.1, h.2.1, rfl, congrArg Regs.opa h.1, congrArg Regs.opb h.1, congrArg Regs.opm h.1⟩

theorem acceptIsprime_related {s t : State} (h : s.sameVisible t) : (acceptIsprime s).sameVisible (acceptIsprime t) :=
  ⟨congrArg Regs.flagsAccept h.1, h.2.1, rfl, congrArg Regs.opa h.1⟩

theorem exec_related (i : Instr) {s t : State} (h : s.sameVisible t) : relatedBy State.sameVisible (exec i s) (exec i t) := by
  cases i with
  | modpow =>
    rw [exec_modpow_eq, exec_modpow_eq, ← h.1]
    split
    case isTrue => exact overrun_related h
    case isFalse =>
      split
      case isTrue => exact reject_related _ h
      case isFalse => exact acceptModpow_related h
  | isprime =>
    rw [exec_isprime_eq, exec_isprime_eq, ← h.1]
    split
    case isTrue => exact overrun_related h
    case isFalse =>
      split
      case isTrue => exact reject_related _ h
      case isFalse => exact acceptIsprime_related h

theorem commandWrite_related (v : Word) {s t : State} (h : s.sameVisible t) :
    relatedBy State.sameVisible (commandWrite v s) (commandWrite v t) := by
  unfold commandWrite
  rw [← h.1]
  split
  case isTrue => exact overrun_related h
  case isFalse =>
    split
    case h_1 i _ => exact exec_related i h
    case h_2 => exact reject_related _ h

theorem busWrite_related (a : BitVec 4) (v : Word) {s t : State} (h : s.sameVisible t) :
    relatedBy State.sameVisible (busWrite a v s) (busWrite a v t) := by
  cases hr : RegName.ofIndex a with
  | none =>
    simp only [busWrite, hr]
    exact h
  | some r =>
    simp only [busWrite, hr]
    cases r with
    | cmd => exact commandWrite_related v h
    | ctrl => exact ⟨congrArg (fun r : Regs => { r with ctrlIE := v.getLsbD 0 }) h.1, h.2⟩
    | status => exact ⟨congrArg (Regs.statusW1C v) h.1, h.2⟩
    | opa => exact ⟨congrArg (fun r : Regs => { r with opa := v }) h.1, h.2⟩
    | opb => exact ⟨congrArg (fun r : Regs => { r with opb := v }) h.1, h.2⟩
    | opm => exact ⟨congrArg (fun r : Regs => { r with opm := v }) h.1, h.2⟩
    | id | result | dreg | rreg | info | witness => exact h

theorem busAccess_related (x : Option Xact) {s t : State} (h : s.sameVisible t) :
    relatedBy State.sameVisible (busAccess x s) (busAccess x t) := by
  obtain - | ⟨we, addr, data⟩ := x
  · exact h
  · cases we with
    | true => exact busWrite_related addr data h
    | false => exact h

/-! What the environment sees rests on the visible registers -/

theorem readReg_congr (r : RegName) {s t : State} (h : s.regs = t.regs) : readReg r s = readReg r t := by
  simp only [readReg, h]

theorem busRead_congr (a : BitVec 4) {s t : State} (h : s.regs = t.regs) : busRead a s = busRead a t := by
  simp only [busRead, readReg_congr _ h]

theorem State.sameVisible.portIn_eq {s t : State} (h : s.sameVisible t) : portIn s = portIn t := by
  simp only [portIn, h.2.1]

theorem State.sameVisible.portRead_eq {s t : State} (h : s.sameVisible t) (p : PortIn) : portRead p s = portRead p t := by
  simp only [portRead, busRead_congr _ h.1]

theorem State.sameVisible.engineTurn_eq {s t : State} (h : s.sameVisible t) : engineTurn s = engineTurn t := by
  simp only [engineTurn, h.2.1, h.2.2.1]

theorem State.sameVisible.hostAfter_eq {s t : State} (h : s.sameVisible t) : hostAfter s = hostAfter t := by
  have hirq : s.irq = t.irq := by simp only [State.irq, h.1]
  simp only [hostAfter, busRead_congr _ h.1, hirq, h.2.1]

theorem State.sameVisible.varsAfter_eq {s t : State} (h : s.sameVisible t) (p : PortIn) : varsAfter p s = varsAfter p t := by
  simp only [varsAfter, h.portRead_eq, h.2.1]

theorem State.sameVisible.advance {s t : State} (h : s.sameVisible t) (p : PortIn) :
    (advance p s).sameVisible (advance p t) :=
  ⟨h.1, by simp only [Machine.advance, h.hostAfter_eq, h.portRead_eq, h.varsAfter_eq, h.2.1], h.2.2⟩

theorem Engine.sameLive_of_idle {c d : Engine} (hc : c.state = .idle) (hd : d.state = .idle) : c.sameLive d := by
  rw [Engine.sameLive, hc, hd]
  exact ⟨rfl, trivial⟩

theorem clockEdge_related (p : PortIn) {s t : State} (h : s.sameVisible t) :
    relatedBy State.sameVisible (clockEdge p s) (clockEdge p t) := by
  unfold clockEdge
  rw [← h.engineTurn_eq]
  cases p.rst with
  | true => exact ⟨rfl, (h.advance p).2.1, Engine.sameLive_of_idle rfl rfl⟩
  | false =>
    refine andThen_related (busAccess_related p.access (h.advance p)) fun u v huv => ?_
    unfold enginePhase
    cases engineTurn s with
    | true => exact engineStep_related huv
    | false => exact huv

/-- Settles O45: a step reads only visible and live registers, and writes alike what it makes live. -/
theorem deadWorkingRegistersAreUnobservable : Obligations.DeadWorkingRegistersAreUnobservable := by
  intro s t h
  unfold step cycle
  rw [← h.portIn_eq]
  cases portIn s with
  | next p => exact clockEdge_related p h
  | fault => rfl
  | refused => rfl

/-- Settles O21: the reset values, and that IDLE makes every working register dead. -/
theorem resetValues : Obligations.ResetValues :=
  ⟨rfl, rfl, rfl, by decide, fun _ hc => ⟨rfl, rfl, Engine.sameLive_of_idle rfl hc⟩⟩

end Sys2Proof.Machine

/-! ## The register window (10_state.md R23 to R40) -/

namespace Sys2Proof.Machine

/-! Bits and words by number -/

theorem getLsbD_one_eq (v : Word) : v.getLsbD 1 = decide (v.toNat / 2 % 2 = 1) := getLsbD_eq v 1
theorem getLsbD_two_eq (v : Word) : v.getLsbD 2 = decide (v.toNat / 4 % 2 = 1) := getLsbD_eq v 2
theorem getLsbD_three_eq (v : Word) : v.getLsbD 3 = decide (v.toNat / 8 % 2 = 1) := getLsbD_eq v 3

/-- A concatenation as a number: the high part times the weight of the low part. -/
theorem append_toNat {m n : Nat} (x : BitVec m) (y : BitVec n) : (x ++ y).toNat = x.toNat * 2 ^ n + y.toNat := by
  rw [BitVec.toNat_append, ← Nat.shiftLeft_add_eq_or_of_lt y.isLt, Nat.shiftLeft_eq]

theorem Regs.ctrlWord_toNat (r : Regs) : r.ctrlWord.toNat = r.ctrlIE.toNat := by
  rw [ctrlWord, append_toNat]
  simp

theorem Regs.statusWord_toNat (r : Regs) :
    r.statusWord.toNat = r.busy.toNat + 2 * r.done.toNat + 4 * r.err.toNat + 8 * r.ovr.toNat + 16 * r.errcode.code.toNat := by
  simp only [statusWord, append_toNat, BitVec.toNat_ofNat, BitVec.toNat_ofBool]
  omega

theorem Regs.rregWord_toNat (r : Regs) : r.rregWord.toNat = r.rreg.toNat := by
  rw [rregWord, append_toNat]
  simp

theorem Regs.infoWord_toNat (r : Regs) : r.infoWord.toNat = r.infoExit.code.toNat + 16 * r.infoBt.toNat := by
  simp only [infoWord, append_toNat, BitVec.toNat_ofNat]
  omega

/-! Reads -/

theorem busRead_index (r : RegName) (s : State) : busRead r.index s = readReg r s := by
  rw [busRead, ofIndex_index]

theorem busRead_reserved {a : BitVec 4} (h : 12 ≤ a.toNat) (s : State) : busRead a s = 0#32 := by
  rw [busRead, (ofIndex_eq_none_iff a).mpr h]

/-- A word reads the same in two states when its register, if it has one, does. -/
theorem busRead_eq_of_readReg_eq {a : BitVec 4} {s t : State} (h : ∀ r : RegName, r.index = a → readReg r t = readReg r s) :
    busRead a t = busRead a s := by
  unfold busRead
  split
  case h_1 r hr => exact h r ((ofIndex_eq_some_iff a r).mp hr).symm
  case h_2 => rfl

/-- Settles O15: each word by its register, the fields by their weights. -/
theorem readsReturnEachRegister : Obligations.ReadsReturnEachRegister := by
  intro s
  refine ⟨rfl, s.regs.ctrlWord_toNat, s.regs.statusWord_toNat, rfl, rfl, rfl, rfl, rfl, rfl, s.regs.rregWord_toNat,
    s.regs.infoWord_toNat, rfl, fun _ ha => busRead_reserved ha s, ?_, ?_⟩
  · have hinfo : (busRead 0xA#4 s).toNat % 8 = s.regs.infoExit.code.toNat := by
      have := s.regs.infoExit.code.isLt
      have := s.regs.infoWord_toNat
      rw [show busRead 0xA#4 s = s.regs.infoWord from rfl]
      omega
    rw [hinfo]
    cases s.regs.infoExit <;> rfl
  · have hstatus : (busRead 0x2#4 s).toNat / 16 % 16 = s.regs.errcode.code.toNat := by
      have := s.regs.errcode.code.isLt
      have := s.regs.statusWord_toNat
      have := s.regs.busy.toNat_le
      have := s.regs.done.toNat_le
      have := s.regs.err.toNat_le
      have := s.regs.ovr.toNat_le
      rw [show busRead 0x2#4 s = s.regs.statusWord from rfl]
      omega
    rw [hstatus]
    cases s.regs.errcode <;> rfl

/-! Writes -/

/-- The W1C clear of a flag by a bit, as a conditional. -/
theorem and_not_decide_eq_ite (b : Bool) (p : Prop) [Decidable p] : (b && !decide p) = if p then false else b := by
  by_cases hp : p <;> simp [hp]

/-- Settles O17: the W1C update, bit by bit. -/
theorem statusWriteClearsByOnes : Obligations.StatusWriteClearsByOnes := by
  intro v s
  refine ⟨acknowledge v s, rfl, rfl, rfl, ?_, ?_, ?_, ?_, rfl⟩
  · rw [acknowledge_regs, Regs.statusW1C_done, getLsbD_one_eq, and_not_decide_eq_ite]
  · rw [acknowledge_regs, Regs.statusW1C_err, getLsbD_two_eq, and_not_decide_eq_ite]
  · simp only [acknowledge_regs, Regs.statusW1C_errcode, getLsbD_two_eq, decide_eq_true_eq]
  · rw [acknowledge_regs, Regs.statusW1C_ovr, getLsbD_three_eq, and_not_decide_eq_ite]

/-- Settles O18: each write replaces its own field. -/
theorem controlAndOperandWrites : Obligations.ControlAndOperandWrites := by
  intro v s
  refine ⟨?_, rfl, rfl, rfl⟩
  rw [← getLsbD_zero_eq]
  rfl

/-- The write of a register other than `CMD` leaves what every other register reads as. -/
theorem AccessEffect.readReg_other {r : RegName} {v : Word} {s t : State} (h : AccessEffect (writeOf r v) s t)
    (hcmd : r ≠ .cmd) {r' : RegName} (hr : r' ≠ r) : readReg r' t = readReg r' s := by
  have same {q : RegName} {w : Word} (hx : writeOf r v = writeOf q w) : r = q := by
    simpa [writeOf, RegName.index_inj] using congrArg (Option.map Xact.addr) hx
  cases h with
  | ignored => rfl
  | overrun _ hx | reject _ _ hx | acceptModpow _ hx | acceptIsprime _ hx => exact absurd (same hx) hcmd
  | ctrl _ hx =>
    cases same hx
    cases r' with
    | ctrl => exact absurd rfl hr
    | _ => rfl
  | status _ hx =>
    cases same hx
    cases r' with
    | status => exact absurd rfl hr
    | _ => rfl
  | opa _ hx =>
    cases same hx
    cases r' with
    | opa => exact absurd rfl hr
    | _ => rfl
  | opb _ hx =>
    cases same hx
    cases r' with
    | opb => exact absurd rfl hr
    | _ => rfl
  | opm _ hx =>
    cases same hx
    cases r' with
    | opm => exact absurd rfl hr
    | _ => rfl

theorem busWrite_readOnly {a : BitVec 4} (ha : a.toNat = 0 ∨ 7 ≤ a.toNat) (v : Word) (s : State) :
    busWrite a v s = .next s := by
  obtain ⟨rfl, -⟩ | ⟨rfl, -⟩ | ⟨rfl, -⟩ | ⟨rfl, -⟩ | ⟨rfl, -⟩ | ⟨rfl, -⟩ | ⟨-, h⟩ := busWrite_cases a v s
  case inr.inr.inr.inr.inr.inr => exact h
  all_goals exact absurd ha (by decide)

/-- A write to a word other than `CMD` leaves what every other word reads as. -/
theorem busRead_busWrite_ne {a b : BitVec 4} {v : Word} {s t : State} (h : busWrite a v s = .next t) (hne : b ≠ a)
    (hcmd : a.toNat ≠ 3) : busRead b t = busRead b s := by
  cases hq : RegName.ofIndex a with
  | none =>
    have hreserved := (ofIndex_eq_none_iff a).mp hq
    rw [busWrite_readOnly (.inr (by omega))] at h
    cases h
    rfl
  | some q =>
    obtain rfl := (ofIndex_eq_some_iff a q).mp hq
    refine busRead_eq_of_readReg_eq fun r hr => (busWrite_effect h).readReg_other ?_ ?_
    · rintro rfl
      exact hcmd rfl
    · rintro rfl
      exact hne hr.symm

theorem busRead_busWrite_operand {r : RegName} (hr : r = .opa ∨ r = .opb ∨ r = .opm) {v : Word} {s t : State}
    (h : busWrite r.index v s = .next t) : busRead r.index t = v := by
  obtain rfl | rfl | rfl := hr <;> cases h <;> rfl

theorem busRead_busWrite_ctrl {v : Word} {s t : State} (h : busWrite RegName.ctrl.index v s = .next t) :
    (busRead RegName.ctrl.index t).toNat = v.toNat % 2 := by
  cases h
  rw [busRead_index]
  refine (Regs.ctrlWord_toNat _).trans ?_
  rw [writeCtrl_regs, getLsbD_zero_eq]
  obtain h0 | h1 := Nat.mod_two_eq_zero_or_one v.toNat
  · simp [h0]
  · simp [h1]

/-- Settles O20: operand words and `IE` read back, and no write but that of `CMD` reaches another word. -/
theorem writeThenReadBack : Obligations.WriteThenReadBack := by
  intro a v s t h
  have index_of {r : RegName} (ha : a.toNat = r.index.toNat) : a = r.index := BitVec.eq_of_toNat_eq ha
  refine ⟨fun ha => ?_, fun ha => ?_, fun ha => ?_, fun b hne hcmd => busRead_busWrite_ne h hne hcmd⟩
  · obtain ha | ha | ha := ha
    · obtain rfl := index_of (r := .opa) ha
      exact busRead_busWrite_operand (.inl rfl) h
    · obtain rfl := index_of (r := .opb) ha
      exact busRead_busWrite_operand (.inr (.inl rfl)) h
    · obtain rfl := index_of (r := .opm) ha
      exact busRead_busWrite_operand (.inr (.inr rfl)) h
  · obtain rfl := index_of (r := .ctrl) ha
    exact busRead_busWrite_ctrl h
  · rw [busWrite_readOnly ha] at h
    cases h
    rfl

end Sys2Proof.Machine

/-! ## Which cycle changes which register (10_state.md R25 to R40, R44) -/

namespace Sys2Proof.Machine

/-! The engine's part of a cycle -/

/-- The engine's part changes no host-visible register, or it completes the running command. -/
theorem EngineEffect.regs_cases {turn : Bool} {u t : State} (h : EngineEffect turn u t) :
    t.regs = u.regs ∨ (turn = true ∧ ∃ c v, coreStep u.engine = .next (c, some v) ∧ t = complete v { u with engine := c }) := by
  cases h with
  | held | moved => exact .inl rfl
  | completed c v hturn hc => exact .inr ⟨hturn, c, v, hc, rfl⟩

theorem EngineEffect.eq_of_no_turn {turn : Bool} {u t : State} (h : EngineEffect turn u t) (hturn : turn = false) : t = u := by
  cases h with
  | held => rfl
  | moved _ hturn' | completed _ _ hturn' => exact absurd (hturn.symm.trans hturn') Bool.false_ne_true

theorem EngineEffect.env {turn : Bool} {u t : State} (h : EngineEffect turn u t) : t.env = u.env := by
  cases h <;> rfl

theorem EngineEffect.ovr {turn : Bool} {u t : State} (h : EngineEffect turn u t) : t.regs.ovr = u.regs.ovr := by
  cases h <;> rfl

/-- The engine writes neither `IE` nor an operand register. -/
theorem EngineEffect.hostRegs {turn : Bool} {u t : State} (h : EngineEffect turn u t) :
    t.regs.opa = u.regs.opa ∧ t.regs.opb = u.regs.opb ∧ t.regs.opm = u.regs.opm ∧ t.regs.ctrlIE = u.regs.ctrlIE := by
  cases h <;> exact ⟨rfl, rfl, rfl, rfl⟩

theorem State.Inv.no_turn_of_not_busy {s : State} (h : s.Inv) (hb : s.regs.busy = false) : engineTurn s = false := by
  rw [← Bool.not_eq_true]
  intro hturn
  exact Bool.false_ne_true (hb.symm.trans (h.busy_of_turn hturn))

/-! The access: the flags -/

section
variable {x : Option Xact} {s u : State}

theorem AccessEffect.env (h : AccessEffect x s u) : u.env = s.env := by
  cases h <;> rfl

/-- `DONE` rises in an access only by a rejection. -/
theorem AccessEffect.done_rises (h : AccessEffect x s u) (h0 : s.regs.done = false) (h1 : u.regs.done = true) :
    s.regs.busy = false ∧ u.regs.err = true ∧ ∃ v, wordWritten RegName.cmd.index x = some v := by
  cases h with
  | reject v e hx hb => exact ⟨hb, rfl, v, wordWritten_eq_some_iff.mpr hx⟩
  | status v => simp [h0] at h1
  | acceptModpow | acceptIsprime => exact absurd h1 Bool.false_ne_true
  | ignored | ctrl | opa | opb | opm | overrun => exact absurd (h0.symm.trans h1) Bool.false_ne_true

/-- `DONE` falls in an access only by an acceptance or its W1C bit. -/
theorem AccessEffect.done_falls (h : AccessEffect x s u) (h1 : s.regs.done = true) (h0 : u.regs.done = false) :
    (u.regs.busy = true ∧ ∃ v, wordWritten RegName.cmd.index x = some v) ∨
      ∃ v, wordWritten RegName.status.index x = some v ∧ v.toNat / 2 % 2 = 1 := by
  cases h with
  | status v hx =>
    refine .inr ⟨v, wordWritten_eq_some_iff.mpr hx, ?_⟩
    rw [acknowledge_regs, Regs.statusW1C_done, h1, getLsbD_one_eq] at h0
    simpa using h0
  | acceptModpow v hx | acceptIsprime v hx => exact .inl ⟨rfl, v, wordWritten_eq_some_iff.mpr hx⟩
  | reject => exact absurd h0.symm Bool.false_ne_true
  | ignored | ctrl | opa | opb | opm | overrun => exact absurd (h0.symm.trans h1) Bool.false_ne_true

/-- `ERR` rises in an access only by a rejection. -/
theorem AccessEffect.err_rises (h : AccessEffect x s u) (h0 : s.regs.err = false) (h1 : u.regs.err = true) :
    s.regs.busy = false ∧ u.regs.done = true ∧ u.regs.errcode ≠ .none ∧ ∃ v, wordWritten RegName.cmd.index x = some v := by
  cases h with
  | reject v e hx hb he => exact ⟨hb, rfl, he, v, wordWritten_eq_some_iff.mpr hx⟩
  | status v => simp [h0] at h1
  | acceptModpow | acceptIsprime => exact absurd h1 Bool.false_ne_true
  | ignored | ctrl | opa | opb | opm | overrun => exact absurd (h0.symm.trans h1) Bool.false_ne_true

/-- `ERR` falls in an access only by an acceptance or its W1C bit, and takes `ERRCODE` with it. -/
theorem AccessEffect.err_falls (h : AccessEffect x s u) (h1 : s.regs.err = true) (h0 : u.regs.err = false) :
    u.regs.errcode = .none ∧
      ((s.regs.busy = false ∧ u.regs.busy = true ∧ ∃ v, wordWritten RegName.cmd.index x = some v) ∨
        ∃ v, wordWritten RegName.status.index x = some v ∧ v.toNat / 4 % 2 = 1) := by
  cases h with
  | status v hx =>
    have hv : v.getLsbD 2 = true := by
      rw [acknowledge_regs, Regs.statusW1C_err, h1] at h0
      simpa using h0
    exact ⟨by rw [acknowledge_regs, Regs.statusW1C_errcode, if_pos hv],
      .inr ⟨v, wordWritten_eq_some_iff.mpr hx, of_decide_eq_true ((getLsbD_two_eq v).symm.trans hv)⟩⟩
  | acceptModpow v hx hb | acceptIsprime v hx hb => exact ⟨rfl, .inl ⟨hb, rfl, v, wordWritten_eq_some_iff.mpr hx⟩⟩
  | reject => exact absurd h0.symm Bool.false_ne_true
  | ignored | ctrl | opa | opb | opm | overrun => exact absurd (h0.symm.trans h1) Bool.false_ne_true

/-- `ERRCODE` takes an error in an access only by a rejection. -/
theorem AccessEffect.errcode_set (h : AccessEffect x s u) (hne : s.regs.errcode ≠ u.regs.errcode)
    (hset : u.regs.errcode ≠ .none) :
    s.regs.busy = false ∧ u.regs.done = true ∧ u.regs.err = true ∧ ∃ v, wordWritten RegName.cmd.index x = some v := by
  cases h with
  | reject v e hx hb => exact ⟨hb, rfl, rfl, v, wordWritten_eq_some_iff.mpr hx⟩
  | status v =>
    rw [acknowledge_regs, Regs.statusW1C_errcode] at hne hset
    split at hset
    case isTrue => exact absurd rfl hset
    case isFalse hv => exact absurd (if_neg hv).symm hne
  | acceptModpow | acceptIsprime => exact absurd rfl hset
  | ignored | ctrl | opa | opb | opm | overrun => exact absurd rfl hne

/-- `ERRCODE` is cleared in an access only together with `ERR`. -/
theorem AccessEffect.errcode_cleared (h : AccessEffect x s u) (hset : s.regs.errcode ≠ .none)
    (hclear : u.regs.errcode = .none) : u.regs.err = false := by
  cases h with
  | status v =>
    rw [acknowledge_regs, Regs.statusW1C_errcode] at hclear
    split at hclear
    case isTrue hv => rw [acknowledge_regs, Regs.statusW1C_err, hv, Bool.not_true, Bool.and_false]
    case isFalse => exact absurd hclear hset
  | acceptModpow | acceptIsprime => rfl
  | reject _ _ _ _ he => exact absurd hclear he
  | ignored | ctrl | opa | opb | opm | overrun => exact absurd hclear hset

/-- `OVR` rises in an access only by a command write while `BUSY = 1`. -/
theorem AccessEffect.ovr_rises (h : AccessEffect x s u) (h0 : s.regs.ovr = false) (h1 : u.regs.ovr = true) :
    s.regs.busy = true ∧ ∃ v, wordWritten RegName.cmd.index x = some v := by
  cases h with
  | overrun v hx hb => exact ⟨hb, v, wordWritten_eq_some_iff.mpr hx⟩
  | status v => simp [h0] at h1
  | ignored | ctrl | opa | opb | opm | reject | acceptModpow | acceptIsprime =>
    exact absurd (h0.symm.trans h1) Bool.false_ne_true

theorem AccessEffect.ovr_set (h : AccessEffect x s u) (hb : s.regs.busy = true) {v : Word} (hx : x = writeOf .cmd v) :
    u.regs.ovr = true := by
  subst hx
  cases h with
  | overrun => rfl
  | ignored h => exact absurd (h .cmd (by simp)) (by simp)
  | reject _ _ _ hb' | acceptModpow _ _ hb' | acceptIsprime _ _ hb' => exact absurd (hb'.symm.trans hb) Bool.false_ne_true
  | ctrl _ hx | status _ hx | opa _ hx | opb _ hx | opm _ hx => simp [writeOf, RegName.index] at hx

/-- `OVR` falls in an access only by its W1C bit. -/
theorem AccessEffect.ovr_falls (h : AccessEffect x s u) (h1 : s.regs.ovr = true) (h0 : u.regs.ovr = false) :
    ∃ v, wordWritten RegName.status.index x = some v ∧ v.toNat / 8 % 2 = 1 := by
  cases h with
  | status v hx =>
    refine ⟨v, wordWritten_eq_some_iff.mpr hx, ?_⟩
    rw [acknowledge_regs, Regs.statusW1C_ovr, h1, getLsbD_three_eq] at h0
    simpa using h0
  | overrun => exact absurd h0.symm Bool.false_ne_true
  | ignored | ctrl | opa | opb | opm | reject | acceptModpow | acceptIsprime =>
    exact absurd (h0.symm.trans h1) Bool.false_ne_true

/-- `BUSY` rises in an access only by an acceptance, which enters the command's first state. -/
theorem AccessEffect.busy_rises (h : AccessEffect x s u) (h0 : s.regs.busy = false) (h1 : u.regs.busy = true) :
    ∃ v, wordWritten RegName.cmd.index x = some v ∧
      ((v.toNat = 1 ∧ 1 ≤ s.regs.opm.toNat ∧ u.engine.state = .mpStart) ∨
        (v.toNat = 2 ∧ 2 ≤ s.regs.opa.toNat ∧ u.engine.state = .ptStart)) := by
  cases h with
  | acceptModpow v hx _ hv hm => exact ⟨v, wordWritten_eq_some_iff.mpr hx, .inl ⟨hv, hm, rfl⟩⟩
  | acceptIsprime v hx _ hv hn => exact ⟨v, wordWritten_eq_some_iff.mpr hx, .inr ⟨hv, hn, rfl⟩⟩
  | ignored | ctrl | status | opa | opb | opm | overrun | reject => exact absurd (h0.symm.trans h1) Bool.false_ne_true

/-- `IE` and the operand registers after an access hold the word it writes to them, if it writes one. -/
theorem AccessEffect.hostRegs (h : AccessEffect x s u) :
    u.regs.opa = (wordWritten RegName.opa.index x).getD s.regs.opa ∧
    u.regs.opb = (wordWritten RegName.opb.index x).getD s.regs.opb ∧
    u.regs.opm = (wordWritten RegName.opm.index x).getD s.regs.opm ∧
    u.regs.ctrlIE = ((wordWritten RegName.ctrl.index x).map (fun v => decide (v.toNat % 2 = 1))).getD s.regs.ctrlIE := by
  cases h with
  | ignored h => simp [h]
  | ctrl v hx =>
    subst hx
    rw [writeCtrl_regs, getLsbD_zero_eq]
    simp
  | status _ hx | opa _ hx | opb _ hx | opm _ hx | overrun _ hx | reject _ _ hx | acceptModpow _ hx | acceptIsprime _ hx =>
    subst hx
    simp

end

/-! The step -/

/-- Settles O34: an access raises `BUSY` only by acceptance, and the engine lowers it only by completion. -/
theorem busyChangesOnlyForItsCauses : Obligations.BusyChangesOnlyForItsCauses := by
  intro s t hi h
  cases step_effect h with
  | reset p hr => exact ⟨fun _ h1 => absurd h1 Bool.false_ne_true, fun _ _ => .inl hr⟩
  | clocked p u _ hr hw ha he =>
    simp only [cmdPresented, hw]
    constructor
    · intro h0 h1
      obtain rfl := he.eq_of_no_turn (hi.no_turn_of_not_busy h0)
      exact ha.busy_rises h0 h1
    · intro h1 h0
      obtain ⟨hengine, hbusy⟩ := ha.engine_of_busy h1
      cases he with
      | held | moved => exact absurd (h0.symm.trans hbusy) Bool.false_ne_true
      | completed c v hturn hc =>
        rw [hengine] at hc
        exact .inr ⟨hturn, rfl, (coreStep_good (engineTurn_running hturn) hi.2.2 hc).1⟩

/-- Settles O35: accesses change the flags by rejection, acceptance and W1C bits, the engine by completion alone. -/
theorem doneAndErrorChangeOnlyForTheirCauses : Obligations.DoneAndErrorChangeOnlyForTheirCauses := by
  intro s t hi h
  have herr := hi.2.1.1
  cases step_effect h with
  | reset p hr => exact ⟨by simp, fun _ _ => .inl hr, by simp, by simp, fun hc _ => ⟨herr hc, rfl⟩, fun _ _ => ⟨rfl, .inl hr⟩⟩
  | clocked p u _ hr hw ha he =>
    simp only [cmdPresented, hw]
    obtain heq | ⟨hturn, c, v, hc, rfl⟩ := he.regs_cases
    · rw [heq]
      refine ⟨fun h0 h1 => .inr (ha.done_rises h0 h1), fun h1 h0 => .inr (ha.done_falls h1 h0), ha.err_rises, ha.errcode_set,
        fun hs hc => ⟨herr hs, ha.errcode_cleared hs hc⟩, fun h1 h0 => ?_⟩
      obtain ⟨hcode, ⟨-, hcause⟩ | hcause⟩ := ha.err_falls h1 h0
      · exact ⟨hcode, .inr (.inl hcause)⟩
      · exact ⟨hcode, .inr (.inr hcause)⟩
    · have hbusy := hi.busy_of_turn hturn
      have running {P : Prop} (hb : s.regs.busy = false) : P := absurd (hb.symm.trans hbusy) Bool.false_ne_true
      refine ⟨fun _ _ => .inl ⟨hbusy, rfl⟩, fun _ h0 => absurd h0.symm Bool.false_ne_true,
        fun h0 h1 => running (ha.err_rises h0 h1).1, fun hne hset => running (ha.errcode_set hne hset).1,
        fun hs hc => ⟨herr hs, ha.errcode_cleared hs hc⟩, fun h1 h0 => ?_⟩
      obtain ⟨hcode, ⟨hb, -⟩ | hcause⟩ := ha.err_falls h1 h0
      · exact running hb
      · exact ⟨hcode, .inr (.inr hcause)⟩

/-- Settles O36: only an access writes `OVR`, the engine never. -/
theorem overrunFlagIsSticky : Obligations.OverrunFlagIsSticky := by
  intro s t h
  cases step_effect h with
  | reset p hr hw =>
    simp only [cmdPresented, hw]
    exact ⟨fun _ h1 => absurd h1 Bool.false_ne_true, by simp, fun _ _ => .inl hr⟩
  | clocked p u _ hr hw ha he =>
    simp only [cmdPresented, hw, he.ovr]
    refine ⟨ha.ovr_rises, ?_, fun h1 h0 => .inr (ha.ovr_falls h1 h0)⟩
    rintro hb ⟨v, hv⟩
    exact ha.ovr_set hb (wordWritten_eq_some_iff.mp hv)

/-- Settles O37: no access writes a result register, and of the engine's steps only a completion does. -/
theorem resultsChangeOnlyAtCompletion : Obligations.ResultsChangeOnlyAtCompletion := by
  intro s t hi h hr hnot
  cases step_effect h with
  | reset p hr' => exact absurd (hr.symm.trans hr') Bool.false_ne_true
  | clocked p u _ _ _ ha he =>
    obtain heq | ⟨hturn, c, v, -, rfl⟩ := he.regs_cases
    · rw [heq]
      exact ha.sameResults
    · exact absurd ⟨hi.busy_of_turn hturn, rfl⟩ hnot

/-- Settles O38: the access writes them as presented, and the engine not at all. -/
theorem hostRegistersChangeOnlyByTheirWrites : Obligations.HostRegistersChangeOnlyByTheirWrites := by
  intro s t h hr
  cases step_effect h with
  | reset p hr' => exact absurd (hr.symm.trans hr') Bool.false_ne_true
  | clocked p u _ _ hw ha he =>
    obtain ⟨hopa, hopb, hopm, hie⟩ := he.hostRegs
    rw [hopa, hopb, hopm, hie, hw, hw, hw, hw]
    exact ha.hostRegs

/-- The engine's part depends on the engine's registers alone. -/
theorem EngineEffect.same {turn : Bool} {u u' t t' : State} (h : EngineEffect turn u t) (h' : EngineEffect turn u' t')
    (heng : u.engine = u'.engine) (hb : u.regs.busy = true) (hb' : u'.regs.busy = true) :
    t.engine = t'.engine ∧ t.regs.busy = t'.regs.busy ∧ (t.regs.busy = false → t.regs.SameResults t'.regs) := by
  have running {P : Prop} (h0 : u.regs.busy = false) : P := absurd (h0.symm.trans hb) Bool.false_ne_true
  cases h with
  | held hturn =>
    obtain rfl := h'.eq_of_no_turn hturn
    exact ⟨heng, hb.trans hb'.symm, running⟩
  | moved c hturn hc =>
    rw [heng] at hc
    cases h' with
    | held hturn' => exact absurd (hturn'.symm.trans hturn) Bool.false_ne_true
    | moved c' _ hc' =>
      cases hc.symm.trans hc'
      exact ⟨rfl, hb.trans hb'.symm, running⟩
    | completed c' v' _ hc' => cases hc.symm.trans hc'
  | completed c v hturn hc =>
    rw [heng] at hc
    cases h' with
    | held hturn' => exact absurd (hturn'.symm.trans hturn) Bool.false_ne_true
    | moved c' _ hc' => cases hc.symm.trans hc'
    | completed c' v' _ hc' =>
      cases hc.symm.trans hc'
      exact ⟨rfl, rfl, fun _ => ⟨rfl, rfl, rfl, rfl, rfl, rfl⟩⟩

theorem engineTurn_congr {s s' : State} (heng : s.engine = s'.engine) (hturns : s.env.turns = s'.env.turns) :
    engineTurn s = engineTurn s' := by
  rw [engineTurn, engineTurn, heng, hturns]

/-- Settles O39: while `BUSY = 1` an access leaves the engine alone, and the engine's step reads nothing else. -/
theorem runningCommandIgnoresTheHost : Obligations.RunningCommandIgnoresTheHost := by
  intro s s' t t' hi hi' hb heng hturns hr hr' h h'
  have hb' : s'.regs.busy = true := hi'.1.mpr (heng ▸ hi.1.mp hb)
  cases step_effect h with
  | reset p hreset => exact absurd (hr.symm.trans hreset) Bool.false_ne_true
  | clocked p u _ _ _ ha he =>
    cases step_effect h' with
    | reset p' hreset => exact absurd (hr'.symm.trans hreset) Bool.false_ne_true
    | clocked p' u' _ _ _ ha' he' =>
      obtain ⟨hu, hub⟩ := ha.engine_of_busy hb
      obtain ⟨hu', hub'⟩ := ha'.engine_of_busy hb'
      rw [← engineTurn_congr heng hturns] at he'
      obtain ⟨hengine, hbusy, hresults⟩ := he.same he' (hu.trans (heng.trans hu'.symm)) hub hub'
      refine ⟨hengine, ?_, hbusy, hresults⟩
      rw [he.env, he'.env, ha.env, ha'.env, advance_env_turns, advance_env_turns, hturns]

end Sys2Proof.Machine

/-! ## Byte lanes, mapped accesses and a cycle's access (20_memory.md R60 to R71) -/

namespace Sys2Proof.Machine

/-! Byte lanes -/

theorem byteLane_toNat (v : Word) (k : Nat) : (byteLane v k).toNat = v.toNat / 2 ^ (8 * k) % 256 := by
  rw [byteLane, BitVec.extractLsb'_toNat, Nat.shiftRight_eq_div_pow]

theorem wordOfBytes_wordBytes (v : Word) : wordOfBytes (wordBytes v) = some v := by
  have hlanes : (byteLane v 3 ++ byteLane v 2 ++ byteLane v 1 ++ byteLane v 0).toNat = v.toNat := by
    have := v.isLt
    simp only [append_toNat, byteLane_toNat]
    omega
  exact congrArg some (BitVec.eq_of_toNat_eq hlanes)

theorem wordOfBytes_of_length_ne {bs : List Byte} (h : bs.length ≠ 4) : wordOfBytes bs = none := by
  unfold wordOfBytes
  split
  case h_1 => exact absurd rfl h
  case h_2 => rfl

theorem decodeBytes_wordBytes (v : Word) (i : Instr) : decodeBytes (wordBytes v) = .ok i ↔ decodeWord v = .ok i := by
  rw [decodeBytes, wordOfBytes_wordBytes]
  cases hd : decodeWord v <;> simp [hd]

/-- Settles O3: the lanes' numbers are the digits of the word's number to base 256. -/
theorem byteLanesRoundTrip : Obligations.ByteLanesRoundTrip :=
  ⟨wordOfBytes_wordBytes, fun v k _ => byteLane_toNat v k, decodeBytes_wordBytes,
    fun bs h => by rw [decodeBytes, wordOfBytes_of_length_ne h]⟩

theorem byteLane_ofNat (n : Nat) {k : Nat} (hk : k < 4) :
    byteLane (BitVec.ofNat 32 n) k = BitVec.ofNat 8 (n / 2 ^ (8 * k)) := by
  apply BitVec.eq_of_toNat_eq
  rw [byteLane_toNat, BitVec.toNat_ofNat, BitVec.toNat_ofNat]
  interval_cases k <;> omega

/-- The bytes of a table entry of 32 bits are the lanes of its word. -/
theorem bytesOfNat_four (n : Nat) : bytesOfNat 4 n = wordBytes (BitVec.ofNat 32 n) := by
  simp [bytesOfNat, wordBytes, byteLane_ofNat, Nat.div_div_eq_div_mul]

theorem decodeWord_of_decodeTableWord {w : Nat} {i : Instr} (h : decodeTableWord 32 w = some i) :
    decodeWord (BitVec.ofNat 32 (w % 2 ^ 32)) = .ok i := by
  rw [decodeTableWord, show max 4 ((32 + 7) / 8) = 4 from rfl, bytesOfNat_four] at h
  rw [← decodeBytes_wordBytes]
  cases hd : decodeBytes (wordBytes (BitVec.ofNat 32 (w % 2 ^ 32))) <;> rw [hd] at h <;> cases h
  rfl

/-! The mapping of a byte address -/

theorem mapAddr_of_width_ne {w : Nat} (hw : w ≠ 4) (a : Nat) : mapAddr a w = .refused .badWidth := if_pos hw

theorem mapAddr_four (a : Nat) :
    mapAddr a 4 = if a % 4 ≠ 0 then .refused .misaligned
      else if a < Config.baseAddr ∨ Config.baseAddr + Config.windowBytes ≤ a then .fault .outsideWindow
      else .next (BitVec.ofNat 4 ((a - Config.baseAddr) / 4)) := if_neg (not_not.mpr rfl)

theorem mapAddr_misaligned {a : Nat} (ha : a % 4 ≠ 0) : mapAddr a 4 = .refused .misaligned := by
  rw [mapAddr_four, if_pos ha]

theorem mapAddr_outside {a : Nat} (ha : a % 4 = 0) (hout : a < Config.baseAddr ∨ Config.baseAddr + 64 ≤ a) :
    mapAddr a 4 = .fault .outsideWindow := by
  rw [mapAddr_four, if_neg (not_not.mpr ha)]
  exact if_pos hout

/-- A word of the window is mapped to its index, since `BASE_ADDR` is a multiple of 64 (20_memory.md R63). -/
theorem mapAddr_window (i : BitVec 4) : mapAddr (Config.baseAddr + 4 * i.toNat) 4 = .next i := by
  have hi := i.isLt
  have haligned : (Config.baseAddr + 4 * i.toNat) % 4 = 0 := by
    simp only [Config.baseAddr, Config.windowBytes]
    omega
  have hinside : ¬ (Config.baseAddr + 4 * i.toNat < Config.baseAddr ∨
      Config.baseAddr + Config.windowBytes ≤ Config.baseAddr + 4 * i.toNat) := by
    simp only [Config.windowBytes]
    omega
  rw [mapAddr_four, if_neg (not_not.mpr haligned), if_neg hinside, Nat.add_sub_cancel_left,
    Nat.mul_div_cancel_left _ (by decide), BitVec.ofNat_toNat, BitVec.setWidth_eq]

/-- A store stops as the mapping of its address does, whatever its bytes. -/
theorem mapAccess_store_of_refused {a w : Nat} {bs : List Byte} {r : Refusal} (hlen : bs.length = w)
    (h : mapAddr a w = .refused r) : mapAccess (.store a bs) = .refused r := by
  rw [mapAccess, hlen, h]

theorem mapAccess_store_of_fault {a w : Nat} {bs : List Byte} {f : Fault} (hlen : bs.length = w)
    (h : mapAddr a w = .fault f) : mapAccess (.store a bs) = .fault f := by
  rw [mapAccess, hlen, h]

/-- Settles O14: a load and a store stop as the mapping of their address does, and a store else carries the word of its bytes. -/
theorem mappedAccessesTranslate : Obligations.MappedAccessesTranslate := by
  refine ⟨fun a w hw => ?_, fun a ha => ?_, fun a _ hlen => mapAccess_store_of_refused rfl (mapAddr_of_width_ne hlen a),
    fun _ _ hlen ha => mapAccess_store_of_refused hlen (mapAddr_misaligned ha), fun a ha hout => ?_,
    fun _ _ hlen ha hout => mapAccess_store_of_fault hlen (mapAddr_outside ha hout), fun i => ?_, fun i v => ?_⟩
  · rw [mapAccess, mapAddr_of_width_ne hw]
  · rw [mapAccess, mapAddr_misaligned ha]
  · rw [mapAccess, mapAddr_outside ha hout]
  · rw [mapAccess, mapAddr_window]
  · rw [mapAccess, wordOfBytes_wordBytes, show (wordBytes v).length = 4 from rfl, mapAddr_window]

/-! Ignored writes -/

/-- Settles O19: the indexes of read-only and reserved words, as the bus write and the bus read classify them. -/
theorem readOnlyAndReservedWritesIgnored : Obligations.ReadOnlyAndReservedWritesIgnored :=
  fun _ v s => ⟨fun ha => busWrite_readOnly ha v s, fun ha => busRead_reserved ha s⟩

/-! A cycle without reset -/

/-- The inputs of a cycle without reset. -/
def PortIn.presenting (x : Option Xact) : PortIn := { rst := false, access := x }

/-- A cycle without reset: the access on the state the environment has moved past, then the engine's part (20_memory.md R71). -/
theorem step_of_portIn {s : State} {x : Option Xact} (h : portIn s = .next (.presenting x)) :
    step s = andThen (busAccess x (advance (.presenting x) s)) (enginePhase (engineTurn s)) := by
  rw [step, cycle, h]
  rfl

theorem portIn_of_access {s : State} {x : Xact} {bind : Option String} {rest : List HostOp}
    (h : s.env.host = .access x bind :: rest) : portIn s = .next (.presenting (some x)) := by
  rw [portIn, h]
  rfl

theorem hostAfter_of_access {s : State} {x : Xact} {bind : Option String} {rest : List HostOp}
    (h : s.env.host = .access x bind :: rest) : hostAfter s = rest := by
  rw [hostAfter, h]

/-- Only a named read binds a variable (30_encoding.md R86). -/
theorem varsAfter_of_no_read {p : PortIn} {s : State} (h : portRead p s = none) : varsAfter p s = s.env.vars := by
  unfold varsAfter
  split
  case h_1 => rw [h]
  case h_2 => rfl

theorem varsAfter_of_unnamed {p : PortIn} {s : State} {x : Xact} {rest : List HostOp}
    (h : s.env.host = .access x none :: rest) : varsAfter p s = s.env.vars := by
  rw [varsAfter, h]

theorem varsAfter_of_named_read {p : PortIn} {s : State} {x : Xact} {name : String} {v : Word} {rest : List HostOp}
    (h : s.env.host = .access x (some name) :: rest) (hv : portRead p s = some v) :
    varsAfter p s = (name, v) :: s.env.vars := by
  simp only [varsAfter, h, hv]

/-! A cycle that writes `CMD` -/

theorem andThen_pure (a : Result) : andThen a .next = a := by cases a <;> rfl

/-- The environment past a write: no value read, no variable bound. -/
theorem advance_of_write {s : State} {a : BitVec 4} {v : Word} {bind : Option String} {rest : List HostOp}
    (h : s.env.host = .access { we := true, addr := a, data := v } bind :: rest) :
    advance (.presenting (some { we := true, addr := a, data := v })) s =
      { s with env := { host := rest, turns := s.env.turns.tail, busRdata := none, vars := s.env.vars } } := by
  rw [advance, hostAfter_of_access h, varsAfter_of_no_read (by rfl)]
  rfl

theorem enginePhase_engineTurn (s : State) :
    enginePhase (engineTurn s) = fun u =>
      if s.env.turns.headD true = true ∧ s.engine.state ≠ .idle then engineStep u else .next u := by
  funext u
  simp only [enginePhase, engineTurn, Bool.and_eq_true, decide_eq_true_eq]

/-- A word that decodes runs its command, which sets `OVR` by itself while `BUSY = 1` (40_command_dispatch.md R100, R104). -/
theorem commandWrite_of_decode {v : Word} {i : Instr} (h : decodeWord v = .ok i) (s : State) :
    commandWrite v s = exec i s := by
  unfold commandWrite
  split
  case isTrue hb =>
    obtain ⟨-, he⟩ | ⟨hb', -⟩ := exec_cases i s
    · exact he.symm
    · exact absurd (hb'.symm.trans hb) Bool.false_ne_true
  case isFalse => rw [h]

theorem step_of_command_write {s : State} {v : Word} {bind : Option String} {rest : List HostOp}
    (h : s.env.host = .access { we := true, addr := RegName.cmd.index, data := v } bind :: rest) :
    step s = andThen
      (commandWrite v { s with env := { host := rest, turns := s.env.turns.tail, busRdata := none, vars := s.env.vars } })
      (enginePhase (engineTurn s)) := by
  rw [step_of_portIn (portIn_of_access h), advance_of_write h]
  rfl

/-- Settles O10: the cycle's access is the command write, and its engine's part is the turn. -/
theorem stepRunsDecodedCommand : Obligations.StepRunsDecodedCommand := by
  intro s v bind rest h
  have hstep := step_of_command_write h
  rw [enginePhase_engineTurn] at hstep
  exact ⟨hstep, fun i hi => hstep.trans (by rw [commandWrite_of_decode hi])⟩

/-- Settles O11: the hook's cycle writes the word to `CMD`, and its turn is spent. -/
theorem fetchWordRunsExactly : Obligations.FetchWordRunsExactly := by
  intro s w i h
  have hdecode := decodeWord_of_decodeTableWord h
  rw [step_of_command_write (s := s.withFetchWord 32 w) rfl, commandWrite_of_decode hdecode]
  exact andThen_pure _

/-! A cycle that reads -/

theorem engineStep_env {s t : State} (h : engineStep s = .next t) : t.env = s.env := by
  obtain ⟨c, ⟨-, rfl⟩ | ⟨v, -, rfl⟩⟩ := engineStep_cases h <;> rfl

/-- The engine's step neither reads nor writes the environment. -/
theorem engineStep_with_env {s t : State} (h : engineStep s = .next t) (e : Env) :
    engineStep { s with env := e } = .next { t with env := e } := by
  unfold engineStep
  obtain ⟨c, ⟨hc, rfl⟩ | ⟨v, hc, rfl⟩⟩ := engineStep_cases h <;> rw [hc] <;> rfl

theorem enginePhase_env {turn : Bool} {s t : State} (h : enginePhase turn s = .next t) : t.env = s.env := by
  cases turn with
  | true => exact engineStep_env h
  | false => cases h; rfl

theorem enginePhase_with_env {turn : Bool} {s t : State} (h : enginePhase turn s = .next t) (e : Env) :
    enginePhase turn { s with env := e } = .next { t with env := e } := by
  cases turn with
  | true => exact engineStep_with_env h e
  | false => cases h; rfl

/-- A read leaves the cycle to the engine (20_memory.md R66). -/
theorem step_of_read {s : State} {a : BitVec 4} {d : Word} {bind : Option String} {rest : List HostOp}
    (h : s.env.host = .access { we := false, addr := a, data := d } bind :: rest) :
    step s = enginePhase (engineTurn s) (advance (.presenting (some { we := false, addr := a, data := d })) s) := by
  rw [step_of_portIn (portIn_of_access h)]
  rfl

theorem step_of_idle {s : State} {rest : List HostOp} (h : s.env.host = .idle :: rest) :
    step s = enginePhase (engineTurn s) (advance (.presenting none) s) := by
  rw [step_of_portIn (x := none) (by rw [portIn, h]; rfl)]
  rfl

/-- Settles O16: a read is the environment's own step, and the engine's part is that of an idle cycle. -/
theorem readsHaveNoSideEffect : Obligations.ReadsHaveNoSideEffect := by
  intro s a d bind rest h
  have hstep := step_of_read h
  constructor
  · intro hturn
    rw [hturn] at hstep
    exact ⟨_, hstep, rfl, rfl⟩
  · intro t ht
    have hphase := hstep.symm.trans ht
    have henv := enginePhase_env hphase
    refine ⟨?_, ?_, ?_, ?_, ?_⟩
    · rw [henv, advance_env_host, hostAfter_of_access h]
    · rw [henv]
      rfl
    · rintro rfl
      rw [henv, advance_env_vars, varsAfter_of_unnamed h]
    · rintro name rfl
      have hvars : t.env.vars = (name, busRead a s) :: s.env.vars := by
        rw [henv, advance_env_vars, varsAfter_of_named_read h rfl]
      simp only [State.var, hvars]
      exact ⟨lookup_bound _ _ _, fun other hne => lookup_other hne _ _⟩
    · exact ⟨_, (step_of_idle rfl).trans (enginePhase_with_env hphase _), rfl, rfl⟩

/-! A mapped cycle -/

theorem portIn_of_mapped {s : State} {r : MappedReq} {rest : List HostOp} {x : Xact} (h : s.env.host = .mapped r :: rest)
    (hx : mapAccess r = .next x) : portIn s = .next (.presenting (some x)) := by
  simp only [portIn, h, hx]
  rfl

/-- The environment moves past a mapped access as past the access it gives, with no name bound. -/
theorem advance_of_mapped {s : State} {r : MappedReq} {rest : List HostOp} (x : Xact) (h : s.env.host = .mapped r :: rest) :
    advance (.presenting (some x)) s =
      advance (.presenting (some x)) { s with env := { s.env with host := .access x none :: rest } } := by
  simp only [advance, hostAfter, varsAfter, h]
  rfl

/-- Settles O57: the port sees the same access, and past it the environments agree. -/
theorem mappedStepsAreAccesses : Obligations.MappedStepsAreAccesses := by
  intro s r rest h
  refine ⟨fun f hf => ?_, fun f hf => ?_, fun x hx => ?_⟩
  · simp only [step, cycle, portIn, h, hf]
  · simp only [step, cycle, portIn, h, hf]
  · rw [step_of_portIn (portIn_of_mapped h hx), advance_of_mapped x h]
    exact (step_of_portIn (portIn_of_access rfl)).symm

/-! The cycle of a completion -/

theorem engineStep_of_completion {s : State} {n : Engine} {c : Completion} (h : coreStep s.engine = .next (n, some c)) :
    engineStep s = .next (complete c { s with engine := n }) := by
  rw [engineStep, h]
  rfl

theorem not_written_of_wordWritten {a : BitVec 4} {x : Xact} (h : wordWritten a (some x) = none) :
    (x.we && x.addr == a) = false := by
  simpa [wordWritten] using h

/-- While a command runs an access clears `ERR` by its W1C bit alone (10_state.md R26). -/
theorem AccessEffect.err_of_busy {x : Xact} {s u : State} (h : AccessEffect (some x) s u) (hb : s.regs.busy = true) :
    u.regs.err = (s.regs.err && !(x.we && x.addr == RegName.status.index && x.data.getLsbD 2)) := by
  cases h with
  | reject _ _ _ hb' | acceptModpow _ _ hb' | acceptIsprime _ _ hb' => exact absurd (hb'.symm.trans hb) Bool.false_ne_true
  | ignored h => simp [not_written_of_wordWritten (h .status (by simp))]
  | status v hx => cases hx; simp
  | ctrl v hx | opa v hx | opb v hx | opm v hx | overrun v hx => cases hx; simp [RegName.index]

/-- While a command runs an access sets `OVR` by a command write and clears it by its W1C bit (10_state.md R30). -/
theorem AccessEffect.ovr_of_busy {x : Xact} {s u : State} (h : AccessEffect (some x) s u) (hb : s.regs.busy = true) :
    u.regs.ovr = (if x.we = true ∧ x.addr = RegName.cmd.index then true
      else s.regs.ovr && !(x.we && x.addr == RegName.status.index && x.data.getLsbD 3)) := by
  cases h with
  | reject _ _ _ hb' | acceptModpow _ _ hb' | acceptIsprime _ _ hb' => exact absurd (hb'.symm.trans hb) Bool.false_ne_true
  | ignored h =>
    rw [if_neg (by simpa using not_written_of_wordWritten (h .cmd (by simp)))]
    simp [not_written_of_wordWritten (h .status (by simp))]
  | overrun v hx => cases hx; simp
  | status v hx | ctrl v hx | opa v hx | opb v hx | opm v hx => cases hx; simp [RegName.index]

/-- Settles O12: the access leaves the running engine alone, so the engine completes after it with its own values. -/
theorem completionCycleOrdersAccessFirst : Obligations.CompletionCycleOrdersAccessFirst := by
  intro s n c x bind rest hb hturn hc h
  obtain ⟨u, hu, -⟩ := busAccess_total (some x) (advance (.presenting (some x)) s)
  have ha := busAccess_effect hu
  obtain ⟨hengine, -⟩ := ha.engine_of_busy hb
  have hstep : step s = .next (complete c { u with engine := n }) := by
    rw [step_of_portIn (portIn_of_access h), hu, hturn]
    exact engineStep_of_completion (hengine.symm ▸ hc)
  exact ⟨_, hstep, rfl, rfl, rfl, rfl, rfl, rfl, rfl, rfl, rfl, ha.err_of_busy hb, ha.ovr_of_busy hb⟩

end Sys2Proof.Machine

/-! ## The command word and the script notation (30_encoding.md R80 to R88) -/

namespace Sys2Proof.Machine

/-! The command word -/

/-- Everything the decoder can answer, by the word's number (30_encoding.md R81, R84). -/
theorem decodeWord_cases (v : Word) :
    (16 ≤ v.toNat ∧ decodeWord v = .error .rsvdBits) ∨ (v.toNat = 1 ∧ decodeWord v = .ok .modpow) ∨
      (v.toNat = 2 ∧ decodeWord v = .ok .isprime) ∨
      ((v.toNat < 16 ∧ v.toNat ≠ 1 ∧ v.toNat ≠ 2) ∧ decodeWord v = .error .badOpcode) := by
  rw [decodeWord_toNat]
  by_cases h16 : 16 ≤ v.toNat
  · exact .inl ⟨h16, if_pos h16⟩
  rw [if_neg h16]
  by_cases h1 : v.toNat = 1
  · exact .inr (.inl ⟨h1, if_pos h1⟩)
  rw [if_neg h1]
  by_cases h2 : v.toNat = 2
  · exact .inr (.inr (.inl ⟨h2, if_pos h2⟩))
  · exact .inr (.inr (.inr ⟨⟨not_le.mp h16, h1, h2⟩, if_neg h2⟩))

theorem decodeWord_encode (i : Instr) : decodeWord (encode i) = .ok i := by cases i <;> rfl

theorem decodeWord_eq_ok_iff (v : Word) (i : Instr) : decodeWord v = .ok i ↔ v = encode i := by
  refine ⟨fun hi => ?_, fun hv => hv ▸ decodeWord_encode i⟩
  obtain ⟨-, h⟩ | ⟨hv, h⟩ | ⟨hv, h⟩ | ⟨-, h⟩ := decodeWord_cases v <;> cases hi.symm.trans h
  · exact BitVec.eq_of_toNat_eq hv
  · exact BitVec.eq_of_toNat_eq hv

theorem decodeWord_eq_rsvdBits_iff (v : Word) : decodeWord v = .error .rsvdBits ↔ 16 ≤ v.toNat := by
  obtain ⟨hv, h⟩ | ⟨hv, h⟩ | ⟨hv, h⟩ | ⟨hv, h⟩ := decodeWord_cases v <;> rw [h] <;> simp <;> omega

theorem decodeWord_eq_badOpcode_iff (v : Word) :
    decodeWord v = .error .badOpcode ↔ v.toNat < 16 ∧ v.toNat ≠ 1 ∧ v.toNat ≠ 2 := by
  obtain ⟨hv, h⟩ | ⟨hv, h⟩ | ⟨hv, h⟩ | ⟨hv, h⟩ := decodeWord_cases v <;> rw [h] <;> simp <;> omega

/-- A word is some command's exactly when its number is one of the two encodings' numbers (30_encoding.md R82). -/
theorem exists_decodeWord_eq_ok_iff (v : Word) : (∃ i, decodeWord v = .ok i) ↔ v.toNat = 1 ∨ v.toNat = 2 := by
  obtain ⟨hv, h⟩ | ⟨hv, h⟩ | ⟨hv, h⟩ | ⟨hv, h⟩ := decodeWord_cases v <;> rw [h] <;> simp <;> omega

/-- Settles O2: the classes of the word's number exclude each other. -/
theorem decodeAcceptsExactlyEncodings : Obligations.DecodeAcceptsExactlyEncodings :=
  ⟨decodeWord_eq_ok_iff, exists_decodeWord_eq_ok_iff,
    fun v => ⟨decodeWord_eq_rsvdBits_iff v, decodeWord_eq_badOpcode_iff v⟩⟩

/-- Settles O1: each written-out word lies in the class that its number has. -/
theorem writtenOutWordsDecode : Obligations.WrittenOutWordsDecode :=
  ⟨decodeWord_encode .modpow, decodeWord_encode .isprime,
    (decodeWord_eq_badOpcode_iff _).mpr (by decide), (decodeWord_eq_badOpcode_iff _).mpr (by decide),
    (decodeWord_eq_badOpcode_iff _).mpr (by decide), (decodeWord_eq_rsvdBits_iff _).mpr (by decide),
    (decodeWord_eq_rsvdBits_iff _).mpr (by decide), (decodeWord_eq_rsvdBits_iff _).mpr (by decide)⟩

/-! The lines of a script -/

/-- `offset[5:2]` of a word's offset is the word's index (30_encoding.md R87). -/
theorem addr_literal (i : BitVec 4) : (RegRef.literal (4 * i.toNat)).addr = i := by
  rw [RegRef.addr, RegRef.offset, Nat.mul_div_cancel_left _ (by decide), BitVec.ofNat_toNat, BitVec.setWidth_eq]

theorem addr_named (r : RegName) : (RegRef.named r).addr = r.index := addr_literal r.index

theorem ofNat_toNat_of_lt {v : Nat} (h : v < 2 ^ 32) : (BitVec.ofNat 32 v).toNat = v := by
  rw [BitVec.toNat_ofNat, Nat.mod_eq_of_lt h]

theorem encode_wr_named (r : RegName) (v : Nat) :
    (ScriptLine.wr (.named r) v).encode = { we := true, addr := r.index, data := BitVec.ofNat 32 v } := by
  rw [ScriptLine.encode, addr_named]

/-- A literal offset of a word of the window is well formed, and so is a 32-bit value (00_scope.md R10, 30_encoding.md R86). -/
theorem wellFormed_wr_literal (i : BitVec 4) {v : Nat} (h : v < 2 ^ 32) :
    (ScriptLine.wr (.literal (4 * i.toNat)) v).wellFormed = true := by
  have hi := i.isLt
  simp only [ScriptLine.wellFormed, RegRef.wellFormed, valueWellFormed, Bool.and_eq_true, decide_eq_true_eq]
  omega

/-- Settles O54: the index of a line is its offset's, and the pseudo-instructions are their lines. -/
theorem scriptLinesEncode : Obligations.ScriptLinesEncode := by
  refine ⟨fun r v hv => ⟨_, encode_wr_named r v, ofNat_toNat_of_lt hv⟩, fun r name => ?_,
    fun i v name hv => ⟨wellFormed_wr_literal i hv, ⟨BitVec.ofNat 32 v, ?_, ofNat_toNat_of_lt hv⟩, ?_⟩,
    encode_wr_named .cmd 2, fun _ _ _ => rfl, fun _ => rfl, rfl, rfl, rfl⟩
  · rw [ScriptLine.encode, addr_named]
  · rw [ScriptLine.encode, addr_literal]
  · rw [ScriptLine.encode, addr_literal]

/-! A script on an idle block -/

/-- In IDLE the engine finishes no step (10_state.md R41). -/
theorem engineTurn_of_idle {s : State} (h : s.engine.state = .idle) : engineTurn s = false := by
  simp [engineTurn, h]

theorem wrOp_toNat (r : RegName) (v : Word) : wrOp r v.toNat = .access { we := true, addr := r.index, data := v } none := by
  have hdata : BitVec.ofNat 32 v.toNat = v := by rw [BitVec.ofNat_toNat, BitVec.setWidth_eq]
  rw [wrOp, ScriptLine.op, encode_wr_named, hdata]

/-- A line `WR <reg>, <value>` on a block whose engine is idle: the cycle is the bus write alone, on the block as it was. -/
theorem step_of_wrOp {s : State} {r : RegName} {v : Word} {rest : List HostOp} (hidle : s.engine.state = .idle)
    (h : s.env.host = wrOp r v.toNat :: rest) :
    ∃ u : State, u.regs = s.regs ∧ u.engine = s.engine ∧ u.env.host = rest ∧ step s = busWrite r.index v u := by
  rw [wrOp_toNat] at h
  refine ⟨advance (.presenting (some { we := true, addr := r.index, data := v })) s, rfl, rfl, hostAfter_of_access h, ?_⟩
  rw [step_of_portIn (portIn_of_access h), engineTurn_of_idle hidle]
  exact andThen_pure _

theorem ne_zero_of_one_le {v : Word} (h : 1 ≤ v.toNat) : v ≠ 0#32 :=
  mt (word_eq_zero_iff v).mp (Nat.one_le_iff_ne_zero.mp h)

theorem exec_modpow_accepted {s : State} (hb : s.regs.busy = false) (hm : 1 ≤ s.regs.opm.toNat) :
    exec .modpow s = .next (acceptModpow s) := by
  rw [exec_modpow_eq, hb, if_neg Bool.false_ne_true, if_neg (ne_zero_of_one_le hm)]

theorem exec_isprime_accepted {s : State} (hb : s.regs.busy = false) (hn : 2 ≤ s.regs.opa.toNat) :
    exec .isprime s = .next (acceptIsprime s) := by
  have hn2 : ¬ s.regs.opa < 2#32 := fun h => absurd (BitVec.lt_def.mp h) (not_lt.mpr hn)
  rw [exec_isprime_eq, hb, if_neg Bool.false_ne_true, if_neg hn2]

/-- The write of MODPOW's word to `CMD` on an idle block with `OPM ≥ 1` (40_command_dispatch.md R111). -/
theorem busWrite_modpow_accepted {s : State} (hb : s.regs.busy = false) (hm : 1 ≤ s.regs.opm.toNat) :
    busWrite RegName.cmd.index 1#32 s = .next (acceptModpow s) :=
  (commandWrite_of_decode (decodeWord_encode .modpow) s).trans (exec_modpow_accepted hb hm)

/-- Settles O55: three operand writes, one cycle each, and the accepting write of `CMD`. -/
theorem modpowScriptStartsCommand : Obligations.ModpowScriptStartsCommand := by
  intro s a e m rest hi hb hm hhost
  have hidle := hi.idle_of_not_busy hb
  obtain ⟨s₁, hregs₁, heng₁, hhost₁, hstep₁⟩ := step_of_wrOp hidle hhost
  obtain ⟨s₂, hregs₂, heng₂, hhost₂, hstep₂⟩ := step_of_wrOp (s := writeOpa a s₁) (heng₁ ▸ hidle) hhost₁
  obtain ⟨s₃, hregs₃, heng₃, hhost₃, hstep₃⟩ := step_of_wrOp (s := writeOpb e s₂) (heng₂ ▸ heng₁ ▸ hidle) hhost₂
  obtain ⟨s₄, hregs₄, -, hhost₄, hstep₄⟩ :=
    step_of_wrOp (v := 1#32) (s := writeOpm m s₃) (heng₃ ▸ heng₂ ▸ heng₁ ▸ hidle) hhost₃
  have hregs : s₄.regs = { s.regs with opa := a, opb := e, opm := m } := by
    rw [hregs₄, writeOpm_regs, hregs₃, writeOpb_regs, hregs₂, writeOpa_regs, hregs₁]
  rw [busWrite_modpow_accepted (by rw [hregs]; exact hb) (by rw [hregs]; exact hm)] at hstep₄
  refine ⟨acceptModpow s₄, ?_, hhost₄, rfl, rfl, ?_⟩
  · exact (cycles_succ_of_step hstep₁).trans <| (cycles_succ_of_step hstep₂).trans <|
      (cycles_succ_of_step hstep₃).trans (cycles_succ_of_step hstep₄)
  · simp [hregs]

end Sys2Proof.Machine

/-! ## How many engine steps a command has left (70_reset_and_hazards.md R243, R244) -/

namespace Sys2Proof.Machine

/-! The bound -/

/-- The steps of one passed base: PT_BASE, the loop over the bits of `d` and its return, PT_POWRET, and for each of at most `r - 1`
squarings PT_SQ, three loop steps and PT_SQRET. -/
def Engine.baseSteps (c : Engine) : Nat := Nat.size c.ptD.toNat + 3 + 5 * (c.ptR.toNat - 1)

/-- From PT_BASE at base `i` to the completion. -/
def Engine.basesSteps (c : Engine) (i : Nat) : Nat := (3 - i) * c.baseSteps + 1

/-- From PT_SQ to the completion, when it is entered with the count of squarings `j`. -/
def Engine.sqSteps (c : Engine) (j : Nat) : Nat := c.basesSteps (c.ptI.toNat + 1) + 5 * (c.ptR.toNat - 1 - j)

/-- From the return of a call of the exponentiator to the completion. -/
def Engine.callerSteps (c : Engine) : Nat :=
  match c.mpRet with
  | .host => 0
  | .ptPowret => c.sqSteps 0 + 1
  | .ptSqret => c.sqSteps (c.ptJ.toNat + 1) + 1

/-- A bound on the engine steps to IDLE. A halving of PT_DECOMP may still be followed by `31 - r` more; the bases take at most
463 steps. -/
def Engine.stepsLeft (c : Engine) : Nat :=
  match c.state with
  | .idle => 0
  | .mpStart => Nat.size c.wE.toNat + 2
  | .mpLoop => Nat.size c.mpE.toNat + 1 + c.callerSteps
  | .ptStart => 496
  | .ptDecomp => 495 - c.ptR.toNat
  | .ptBase => c.basesSteps c.ptI.toNat
  | .ptPowret => c.sqSteps 0 + 1
  | .ptSq => c.sqSteps c.ptJ.toNat
  | .ptSqret => c.sqSteps (c.ptJ.toNat + 1) + 1

theorem basesSteps_pos (c : Engine) (i : Nat) : 1 ≤ c.basesSteps i := Nat.le_add_left 1 _

/-- One base more to test takes one base's steps more. -/
theorem basesSteps_eq_add {c : Engine} {i : Nat} (h : i ≤ 2) : c.basesSteps i = c.basesSteps (i + 1) + c.baseSteps := by
  have hleft : 3 - i = 3 - (i + 1) + 1 := by omega
  simp only [Engine.basesSteps]
  rw [hleft, Nat.succ_mul]
  omega

/-- The bits of `d` and the exponent `r` share the 32 bits of `n - 1 = d · 2^r`. -/
theorem size_ptD_add_ptR_le {c : Engine} (h : c.decomposing) : Nat.size c.ptD.toNat + c.ptR.toNat ≤ 32 := by
  obtain ⟨-, -, hprod⟩ := h
  have hn := c.ptN.isLt
  have hr := c.ptR.isLt
  have hsplit : 2 ^ 32 = 2 ^ (32 - c.ptR.toNat) * 2 ^ c.ptR.toNat := by rw [← pow_add]; congr 1; omega
  have hlt : c.ptD.toNat < 2 ^ (32 - c.ptR.toNat) := by
    refine lt_of_mul_lt_mul_right ?_ (Nat.zero_le (2 ^ c.ptR.toNat))
    rw [← hsplit]
    omega
  have := Nat.size_le.mpr hlt
  omega

/-- All three bases take at most 463 steps, whatever the decomposition. -/
theorem basesSteps_zero_le {c : Engine} (h : c.decomposing) : c.basesSteps 0 ≤ 463 := by
  have := size_ptD_add_ptR_le h
  have := c.ptR.isLt
  simp only [Engine.basesSteps, Engine.baseSteps]
  omega

/-- A halved exponent is a bit shorter. -/
theorem size_half_lt {e : Nat} (h : e ≠ 0) : Nat.size (e / 2) < Nat.size e := by
  obtain ⟨k, hk⟩ := Nat.exists_eq_add_one.mpr (Nat.lt_size.mpr (Nat.one_le_iff_ne_zero.mpr h))
  have hlt := Nat.lt_size_self e
  rw [hk, pow_succ] at hlt
  rw [hk, Nat.lt_succ_iff, Nat.size_le]
  omega

/-- A base in the table has an index below 3 (10_state.md R45). -/
theorem ptI_le_two {i : BitVec 2} {b : Word} (h : baseAt i = some b) : i.toNat ≤ 2 := by
  obtain ⟨rfl, -⟩ | ⟨rfl, -⟩ | ⟨rfl, -⟩ | ⟨-, he⟩ := baseAt_cases i
  · decide
  · decide
  · decide
  · cases h.symm.trans he

/-! Every engine step answers, and lowers the bound -/

/-- The step answers a next state of the engine, with fewer steps left. -/
def Engine.Progress (c : Engine) (o : Host.Outcome EngineNext Fault Refusal) : Prop :=
  ∃ n, o = .next n ∧ n.1.stepsLeft < c.stepsLeft

theorem stepMpStart_progress {c : Engine} (hs : c.state = .mpStart) : c.Progress (stepMpStart c) := by
  have hleft : c.stepsLeft = Nat.size c.wE.toNat + 2 := by rw [Engine.stepsLeft, hs]
  refine ⟨_, rfl, ?_⟩
  rw [hleft]
  by_cases he : c.wE = 0#32
  · rw [mpCall, if_pos he]
    exact Nat.succ_pos _
  · rw [mpCall, if_neg he]
    exact Nat.lt_succ_self _

/-- The exponentiator's return leaves the caller's steps. -/
theorem returnTo_stepsLeft (c : Engine) : (returnTo c.mpRet c).1.stepsLeft = c.callerSteps := by
  rw [Engine.callerSteps]
  cases c.mpRet <;> rfl

theorem stepMpLoop_progress {c : Engine} (hs : c.state = .mpLoop) (hm : 1 ≤ c.mpM.toNat) : c.Progress (stepMpLoop c) := by
  have hleft : c.stepsLeft = Nat.size c.mpE.toNat + 1 + c.callerSteps := by rw [Engine.stepsLeft, hs]
  rw [stepMpLoop, if_neg (ne_zero_of_one_le hm)]
  by_cases he : c.mpE = 0#32
  · rw [if_pos he]
    refine ⟨_, rfl, ?_⟩
    have hret := returnTo_stepsLeft { c with mpRes := trunc32 (c.mpAcc % zext64 c.mpM) }
    rw [hleft]
    refine hret.trans_lt ?_
    show c.callerSteps < _
    omega
  · rw [if_neg he]
    refine ⟨_, rfl, ?_⟩
    have hnext : (mpIterate c).stepsLeft = Nat.size (c.mpE.toNat / 2) + 1 + c.callerSteps := by
      rw [Engine.stepsLeft, show (mpIterate c).state = .mpLoop from hs, ← shiftRight_one_toNat]
      rfl
    have := size_half_lt (mt (word_eq_zero_iff _).mpr he)
    rw [hleft, hnext]
    omega

theorem stepPtStart_progress {c : Engine} (hs : c.state = .ptStart) : c.Progress (stepPtStart c) := by
  have hleft : c.stepsLeft = 496 := by rw [Engine.stepsLeft, hs]
  unfold stepPtStart
  split
  case isTrue => exact ⟨_, rfl, hleft ▸ Nat.succ_pos 495⟩
  case isFalse =>
    split
    case isTrue => exact ⟨_, rfl, hleft ▸ Nat.succ_pos 495⟩
    case isFalse => exact ⟨_, rfl, hleft ▸ Nat.lt_succ_self 495⟩

/-- A halving does not wrap `PT_R`: an even `d` still has two of the 32 bits (42_isprime.md R162, log 11). -/
theorem ptR_add_one_toNat {c : Engine} (hc : c.decomposing) (heven : c.ptD.toNat % 2 = 0) :
    (c.ptR + 1#5).toNat = c.ptR.toNat + 1 := by
  have hbits := size_ptD_add_ptR_le hc
  obtain ⟨-, h5, hprod⟩ := hc
  have hd : c.ptD.toNat ≠ 0 := fun h0 => by rw [h0] at hprod; omega
  have h2 : 1 < Nat.size c.ptD.toNat := Nat.lt_size.mpr (by omega)
  rw [BitVec.toNat_add]
  exact Nat.mod_eq_of_lt (show c.ptR.toNat + 1 < 2 ^ 5 by omega)

theorem stepPtDecomp_progress {c : Engine} (hs : c.state = .ptDecomp) (hc : c.decomposing) : c.Progress (stepPtDecomp c) := by
  have hleft : c.stepsLeft = 495 - c.ptR.toNat := by rw [Engine.stepsLeft, hs]
  have hr := c.ptR.isLt
  unfold stepPtDecomp
  simp only [getLsbD_zero_eq, decide_eq_false_iff_not]
  split
  case isTrue heven =>
    refine ⟨_, rfl, ?_⟩
    have hr' := ptR_add_one_toNat hc (by omega)
    simp only [Engine.stepsLeft, hs, hr']
    omega
  case isFalse =>
    refine ⟨_, rfl, ?_⟩
    have hbases : c.basesSteps 0 ≤ 463 := basesSteps_zero_le hc
    rw [hleft]
    exact hbases.trans_lt (by omega)

theorem stepPtBase_progress {c : Engine} (hs : c.state = .ptBase) (hd : c.ptD ≠ 0#32) : c.Progress (stepPtBase c) := by
  have hleft : c.stepsLeft = c.basesSteps c.ptI.toNat := by rw [Engine.stepsLeft, hs]
  have hpos := basesSteps_pos c c.ptI.toNat
  unfold stepPtBase
  split
  case h_1 => exact ⟨_, rfl, hleft ▸ hpos⟩
  case h_2 b hb =>
    split
    case isTrue => exact ⟨_, rfl, hleft ▸ hpos⟩
    case isFalse =>
      refine ⟨_, rfl, ?_⟩
      have hcall : (mpCall b c.ptD c.ptN .ptPowret c).1.stepsLeft = Nat.size c.ptD.toNat + 1 + (c.sqSteps 0 + 1) := by
        rw [mpCall, if_neg hd]
        rfl
      rw [hleft, basesSteps_eq_add (ptI_le_two hb), Engine.baseSteps]
      refine hcall.trans_lt ?_
      rw [Engine.sqSteps]
      omega

/-- The next base has its own steps ahead. -/
theorem nextBase_stepsLeft {c : Engine} (hi : c.ptI.toNat ≤ 2) : (nextBase c).stepsLeft = c.basesSteps (c.ptI.toNat + 1) := by
  have hadd : (c.ptI + 1#2).toNat = c.ptI.toNat + 1 := by
    rw [BitVec.toNat_add]
    exact Nat.mod_eq_of_lt (show c.ptI.toNat + 1 < 2 ^ 2 by omega)
  rw [← hadd]
  rfl

theorem stepPtPowret_progress {c : Engine} (hs : c.state = .ptPowret) (hc : c.testing) : c.Progress (stepPtPowret c) := by
  have hleft : c.stepsLeft = c.sqSteps 0 + 1 := by rw [Engine.stepsLeft, hs]
  simp only [stepPtPowret]
  split
  case isTrue =>
    refine ⟨_, rfl, ?_⟩
    refine (nextBase_stepsLeft (c := { c with ptM := c.mpRes }) hc.base.1).trans_lt ?_
    rw [hleft]
    exact Nat.lt_succ_of_le (Nat.le_add_right _ _)
  case isFalse => exact ⟨_, rfl, hleft ▸ Nat.lt_succ_self _⟩

theorem stepPtSq_progress {c : Engine} (hs : c.state = .ptSq) (hc : c.testing) (hj : c.ptJ.toNat + 1 ≤ c.ptR.toNat) :
    c.Progress (stepPtSq c) := by
  have hleft : c.stepsLeft = c.sqSteps c.ptJ.toNat := by rw [Engine.stepsLeft, hs]
  have hpos := basesSteps_pos c (c.ptI.toNat + 1)
  unfold stepPtSq
  split
  case isTrue =>
    obtain ⟨b, hb, -⟩ := testing_base hc
    rw [hb]
    exact ⟨_, rfl, hleft ▸ Nat.lt_of_lt_of_le hpos (Nat.le_add_right _ _)⟩
  case isFalse hne =>
    refine ⟨_, rfl, ?_⟩
    have hcall : (mpCall c.ptM 2#32 c.ptN .ptSqret c).1.stepsLeft =
        Nat.size 2 + 1 + (c.sqSteps (c.ptJ.toNat + 1) + 1) := by
      rw [mpCall, if_neg (by decide)]
      rfl
    have hsize : Nat.size 2 = 2 := by decide
    rw [hcall, hleft, hsize, Engine.sqSteps, Engine.sqSteps]
    omega

theorem stepPtSqret_progress {c : Engine} (hs : c.state = .ptSqret) (hc : c.squaring) : c.Progress (stepPtSqret c) := by
  obtain ⟨htest, hj, -⟩ := hc
  have hr := c.ptR.isLt
  have hjadd : (c.ptJ + 1#5).toNat = c.ptJ.toNat + 1 := by
    rw [BitVec.toNat_add]
    exact Nat.mod_eq_of_lt (show c.ptJ.toNat + 1 < 2 ^ 5 by omega)
  have hleft : c.stepsLeft = c.sqSteps (c.ptJ.toNat + 1) + 1 := by rw [Engine.stepsLeft, hs]
  simp only [stepPtSqret]
  split
  case isTrue =>
    refine ⟨_, rfl, ?_⟩
    refine (nextBase_stepsLeft (c := { c with ptM := c.mpRes, ptJ := c.ptJ + 1#5 }) htest.base.1).trans_lt ?_
    rw [hleft]
    exact Nat.lt_succ_of_le (Nat.le_add_right _ _)
  case isFalse =>
    refine ⟨_, rfl, ?_⟩
    rw [hleft, ← hjadd]
    exact Nat.lt_succ_self _

/-- A running engine in its invariant always answers, with fewer steps left (70_reset_and_hazards.md R244). -/
theorem coreStep_progress {c : Engine} (hr : c.state ≠ .idle) (hi : c.Inv) : c.Progress (coreStep c) := by
  unfold Engine.Inv at hi
  unfold coreStep
  cases hs : c.state <;> simp only [hs] at hi ⊢
  case idle => exact absurd hs hr
  case mpStart => exact stepMpStart_progress hs
  case mpLoop => exact stepMpLoop_progress hs hi.1
  case ptStart => exact stepPtStart_progress hs
  case ptDecomp => exact stepPtDecomp_progress hs hi
  case ptBase => exact stepPtBase_progress hs (ne_zero_of_odd hi.2.1)
  case ptPowret => exact stepPtPowret_progress hs hi.1
  case ptSq => exact stepPtSq_progress hs hi.1 hi.2.1
  case ptSqret => exact stepPtSqret_progress hs hi.1

/-! A cycle while a command runs -/

/-- A bound on the cycles to the completion: the pending turns, of which some may be stalls, and the engine's steps. -/
def State.cyclesLeft (s : State) : Nat := s.env.turns.length + s.engine.stepsLeft

theorem settle_engine (n : EngineNext) (s : State) : (settle n s).engine = n.1 := by
  obtain ⟨c, - | v⟩ := n <;> rfl

theorem engineStep_progress {s : State} (hr : s.engine.state ≠ .idle) (hi : s.engine.Inv) :
    ∃ t, engineStep s = .next t ∧ t.engine.stepsLeft < s.engine.stepsLeft := by
  obtain ⟨n, hn, hlt⟩ := coreStep_progress hr hi
  exact ⟨settle n s, by rw [engineStep, hn], by rwa [settle_engine]⟩

/-- The engine's part of a running command's cycle: a step of the engine, or a stall off the list of turns. -/
theorem enginePhase_progress {s u : State} (hr : s.engine.state ≠ .idle) (hi : s.engine.Inv) (heng : u.engine = s.engine)
    (hturns : u.env.turns = s.env.turns.tail) :
    ∃ t, enginePhase (engineTurn s) u = .next t ∧ t.cyclesLeft < s.cyclesLeft := by
  have htail : s.env.turns.tail.length ≤ s.env.turns.length := by rw [List.length_tail]; exact Nat.sub_le _ _
  cases hturn : engineTurn s with
  | true =>
    obtain ⟨t, ht, hlt⟩ := engineStep_progress (s := u) (heng ▸ hr) (heng ▸ hi)
    refine ⟨t, ht, ?_⟩
    rw [State.cyclesLeft, engineStep_env ht, hturns, State.cyclesLeft, ← heng]
    exact Nat.add_lt_add_of_le_of_lt htail hlt
  | false =>
    refine ⟨u, rfl, ?_⟩
    have hstall : s.env.turns ≠ [] := fun h0 => by simp [engineTurn, h0, hr] at hturn
    have hshorter : s.env.turns.tail.length < s.env.turns.length := by
      rw [List.length_tail]
      exact Nat.sub_lt (List.length_pos_of_ne_nil hstall) Nat.one_pos
    rw [State.cyclesLeft, hturns, State.cyclesLeft, heng]
    exact Nat.add_lt_add_right hshorter _

/-- A cycle without reset while a command runs: whatever the access is, the cycle answers, and the completion is nearer
(10_state.md R44; 70_reset_and_hazards.md R244). -/
theorem step_progress {s : State} {x : Option Xact} (hi : s.Inv) (hb : s.regs.busy = true)
    (hp : portIn s = .next (.presenting x)) :
    ∃ t, step s = .next t ∧ t.env = (advance (.presenting x) s).env ∧ t.cyclesLeft < s.cyclesLeft := by
  obtain ⟨u, hu, henv⟩ := busAccess_total x (advance (.presenting x) s)
  obtain ⟨heng, -⟩ := busAccess_engine_of_busy (s := advance (.presenting x) s) hb hu
  obtain ⟨t, ht, hlt⟩ := enginePhase_progress (u := u) (hi.1.mp hb) hi.2.2 heng (by rw [henv]; rfl)
  exact ⟨t, step_of_access hp rfl hu ht, (enginePhase_env ht).trans henv, hlt⟩

/-- A command that a cycle without reset ends is complete (10_state.md R27, R28). -/
theorem done_of_not_busy {s t : State} {x : Option Xact} (hi : s.Inv) (hb : s.regs.busy = true)
    (hp : portIn s = .next (.presenting x)) (h : step s = .next t) (hb' : t.regs.busy = false) : t.regs.done = true := by
  have hreset : resetPresented s = false := resetPresented_eq hp
  obtain ⟨-, hfalls⟩ := busyChangesOnlyForItsCauses s t hi h
  obtain hr | ⟨-, hdone, -⟩ := hfalls hb hb'
  · exact absurd (hreset.symm.trans hr) Bool.false_ne_true
  · exact hdone

/-! The accepted commands -/

theorem acceptModpow_inv {s : State} (hm : 1 ≤ s.regs.opm.toNat) : (acceptModpow s).Inv :=
  ⟨by simp, ⟨by simp, by simp⟩, hm⟩

theorem acceptIsprime_inv {s : State} (hn : 2 ≤ s.regs.opa.toNat) : (acceptIsprime s).Inv :=
  ⟨by simp, ⟨by simp, by simp⟩, hn⟩

/-- A MODPOW takes at most 34 engine steps (70_reset_and_hazards.md R243). -/
theorem acceptModpow_stepsLeft_le (s : State) : (acceptModpow s).engine.stepsLeft ≤ 34 :=
  Nat.add_le_add_right (Nat.size_le.mpr s.regs.opb.isLt) 2

/-- An ISPRIME takes at most 496 engine steps (70_reset_and_hazards.md R243). -/
theorem acceptIsprime_stepsLeft (s : State) : (acceptIsprime s).engine.stepsLeft = 496 := rfl

end Sys2Proof.Machine

/-! ## Polling for the completion (30_encoding.md R88, 70_reset_and_hazards.md R243) -/

namespace Sys2Proof.Machine

/-! A cycle of a wait -/

/-- The host operation of `WAITDONE`. -/
def pollDone : HostOp := .wait RegName.status.index 2#32 2#32

theorem waitDone_expand : ScriptItem.waitDone.expand = [pollDone] := by
  rw [ScriptItem.expand, addr_named, pollDone]

/-- The read a wait makes in each of its cycles. -/
def readOf (a : BitVec 4) : Xact := { we := false, addr := a, data := 0#32 }

theorem portIn_of_wait {s : State} {a : BitVec 4} {mask val : Word} {rest : List HostOp}
    (h : s.env.host = .wait a mask val :: rest) : portIn s = .next (.presenting (some (readOf a))) := by
  rw [portIn, h]
  rfl

/-- `DONE` is bit 1 of `STATUS` (10_state.md R26). -/
theorem busRead_status_bit_one (s : State) : (busRead RegName.status.index s).getLsbD 1 = s.regs.done := by
  rw [busRead_index, readReg, getLsbD_one_eq, Regs.statusWord_toNat]
  have := s.regs.busy.toNat_le
  cases s.regs.done <;> simp <;> omega

theorem and_two_eq_two_iff (v : Word) : v &&& 2#32 = 2#32 ↔ v.getLsbD 1 = true := by
  rw [show (2#32 : Word) = BitVec.twoPow 32 1 from rfl, BitVec.and_twoPow]
  cases v.getLsbD 1 <;> decide

/-- The wait goes on until the `STATUS` that it reads has `DONE = 1`. -/
theorem hostAfter_of_pollDone {s : State} {rest : List HostOp} (h : s.env.host = pollDone :: rest) :
    hostAfter s = if s.regs.done then rest else pollDone :: rest := by
  have hcond : (busRead RegName.status.index s &&& 2#32 = 2#32) = (s.regs.done = true) := by
    rw [and_two_eq_two_iff, busRead_status_bit_one]
  rw [hostAfter, h, pollDone]
  simp only [hcond]

/-- The host has read `DONE = 1`, in the word `v` of the last cycle, and goes on with the rest of its script on an idle block. -/
def State.polledDone (u : State) (rest : List HostOp) (v : Word) : Prop :=
  u.env.host = rest ∧ u.env.busRdata = some v ∧ v.getLsbD 1 = true ∧ u.regs.busy = false ∧ u.regs.done = true

/-- On a block that is done, one read ends the wait. -/
theorem step_of_pollDone_done {s : State} {rest : List HostOp} (hi : s.Inv) (h : s.env.host = pollDone :: rest)
    (hb : s.regs.busy = false) (hd : s.regs.done = true) :
    ∃ u v, step s = .next u ∧ u.polledDone rest v := by
  have hstep := step_of_portIn (portIn_of_wait h)
  rw [hi.no_turn_of_not_busy hb] at hstep
  refine ⟨advance (.presenting (some (readOf RegName.status.index))) s, busRead RegName.status.index s, hstep, ?_⟩
  exact ⟨by rw [advance_env_host, hostAfter_of_pollDone h, if_pos hd], rfl, (busRead_status_bit_one s).trans hd, hb, hd⟩

/-- While a command runs, its cycle's read leaves the wait where it is, and brings the completion nearer. -/
theorem step_of_pollDone_busy {s : State} {rest : List HostOp} (hi : s.Inv) (h : s.env.host = pollDone :: rest)
    (hb : s.regs.busy = true) :
    ∃ t, step s = .next t ∧ t.env.host = pollDone :: rest ∧ (t.regs.busy = false → t.regs.done = true) ∧
      t.cyclesLeft < s.cyclesLeft := by
  have hport := portIn_of_wait h
  obtain ⟨hdone, -⟩ := hi.2.1.2 hb
  obtain ⟨t, ht, henv, hlt⟩ := step_progress hi hb hport
  refine ⟨t, ht, ?_, done_of_not_busy hi hb hport ht, hlt⟩
  rw [henv, advance_env_host, hostAfter_of_pollDone h, hdone, if_neg Bool.false_ne_true]

/-- The wait ends in the cycle after the completion, at the latest. -/
theorem polling_ends {rest : List HostOp} {n : Nat} {s : State} (hi : s.Inv) (h : s.env.host = pollDone :: rest)
    (hd : s.regs.busy = false → s.regs.done = true) (hn : s.cyclesLeft < n) :
    ∃ k u v, k ≤ n ∧ cycles k s = .next u ∧ u.polledDone rest v := by
  induction n generalizing s with
  | zero => exact absurd hn (Nat.not_lt_zero _)
  | succ n ih =>
    cases hb : s.regs.busy with
    | false =>
      obtain ⟨u, v, hstep, hu⟩ := step_of_pollDone_done hi h hb (hd hb)
      exact ⟨1, u, v, Nat.succ_pos n, cycles_succ_of_step hstep, hu⟩
    | true =>
      obtain ⟨t, ht, hhost, hdone, hlt⟩ := step_of_pollDone_busy hi h hb
      obtain ⟨k, u, v, hk, hrun, hu⟩ := ih (step_keeps_inv hi ht) hhost hdone (by omega)
      exact ⟨k + 1, u, v, Nat.succ_le_succ hk, (cycles_succ_of_step ht).trans hrun, hu⟩

/-- Polling after an acceptance, with the command's bound on its engine steps. -/
theorem polling_ends_of_running {s t : State} {rest : List HostOp} (hi : t.Inv) (hb : t.regs.busy = true) (henv : t.env = s.env)
    (hhost : s.env.host = ScriptItem.waitDone.expand ++ rest) (hsteps : t.engine.stepsLeft ≤ 496) :
    ∃ k u v, k ≤ s.env.turns.length + 497 ∧ cycles k t = .next u ∧ u.polledDone rest v := by
  have hleft : t.cyclesLeft < s.env.turns.length + 497 := by
    rw [State.cyclesLeft, henv]
    exact Nat.add_lt_add_left (Nat.lt_succ_of_le hsteps) _
  rw [waitDone_expand, ← henv] at hhost
  exact polling_ends hi hhost (fun hb' => absurd (hb'.symm.trans hb) Bool.false_ne_true) hleft

/-- Settles O56: from the acceptance on, the bound on the command's steps falls with every cycle that is no stall. -/
theorem pollingEndsForEveryCommand : Obligations.PollingEndsForEveryCommand := by
  intro s t i rest hb hm hn hhost hexec
  cases i with
  | modpow =>
    cases hexec.symm.trans (exec_modpow_accepted hb (hm rfl))
    exact polling_ends_of_running (acceptModpow_inv (hm rfl)) rfl rfl hhost
      ((acceptModpow_stepsLeft_le s).trans (by decide))
  | isprime =>
    cases hexec.symm.trans (exec_isprime_accepted hb (hn rfl))
    exact polling_ends_of_running (acceptIsprime_inv (hn rfl)) rfl rfl hhost (acceptIsprime_stepsLeft s).le

end Sys2Proof.Machine

/-! ## The outcomes of a command write (40_command_dispatch.md) -/

namespace Sys2Proof.Machine

/-! What a rejection and an acceptance show at the port -/

/-- The interrupt output is low while `DONE` is (60_exceptions.md R200). -/
theorem State.irq_of_not_done {s : State} (h : s.regs.done = false) : s.irq = false := by
  rw [State.irq, h, Bool.and_false]

/-- A rejection sets `DONE`, so that `irq` is `IE` (60_exceptions.md R200). -/
theorem reject_irq (e : ErrCode) (s : State) : (reject e s).irq = s.regs.ctrlIE := Bool.and_true _

/-- `Reject(code)` with its whole frame (40_command_dispatch.md R110, 60_exceptions.md R197). -/
theorem reject_effect (e : ErrCode) (s : State) :
    (reject e s).engine = s.engine ∧ (reject e s).env = s.env ∧ (reject e s).regs.errcode.code = e.code ∧
      (reject e s).regs = { s.regs with done := true, err := true, errcode := e } ∧ (reject e s).irq = s.regs.ctrlIE :=
  ⟨rfl, rfl, rfl, rfl, reject_irq e s⟩

/-! The operand checks, and the classes of words that are no command -/

theorem exec_modpow_rejected {s : State} (hb : s.regs.busy = false) (hm : s.regs.opm.toNat = 0) :
    exec .modpow s = .next (reject .modZero s) := by
  rw [exec_modpow_eq, hb, if_neg Bool.false_ne_true, if_pos ((word_eq_zero_iff _).mpr hm)]

theorem exec_isprime_rejected {s : State} (hb : s.regs.busy = false) (hn : s.regs.opa.toNat < 2) :
    exec .isprime s = .next (reject .nLt2 s) := by
  have hn2 : s.regs.opa < 2#32 := BitVec.lt_def.mpr hn
  rw [exec_isprime_eq, hb, if_neg Bool.false_ne_true, if_pos hn2]

theorem commandWrite_overrun {s : State} (hb : s.regs.busy = true) (v : Word) : commandWrite v s = .next (overrun s) :=
  if_pos hb

/-- The write of a command's own word is the command (30_encoding.md R82). -/
theorem commandWrite_encode (i : Instr) (s : State) : commandWrite (encode i) s = exec i s :=
  commandWrite_of_decode (decodeWord_encode i) s

theorem commandWrite_of_toNat_eq {v : Word} {i : Instr} (h : v.toNat = (encode i).toNat) (s : State) :
    commandWrite v s = exec i s := by
  rw [BitVec.eq_of_toNat_eq h, commandWrite_encode]

/-- A word that the decoder rejects is rejected with the code of its class (40_command_dispatch.md R103, R106, R107). -/
theorem commandWrite_of_decode_error {v : Word} {e : CmdError} {s : State} (hb : s.regs.busy = false)
    (h : decodeWord v = .error e) : commandWrite v s = .next (reject (cmdErrCode e) s) := by
  rw [commandWrite, hb, if_neg Bool.false_ne_true, h]

theorem commandWrite_rsvdBits {v : Word} {s : State} (hb : s.regs.busy = false) (hv : 16 ≤ v.toNat) :
    commandWrite v s = .next (reject .rsvdBits s) :=
  commandWrite_of_decode_error hb ((decodeWord_eq_rsvdBits_iff v).mpr hv)

theorem commandWrite_badOpcode {v : Word} {s : State} (hb : s.regs.busy = false)
    (hv : v.toNat < 16 ∧ v.toNat ≠ 1 ∧ v.toNat ≠ 2) : commandWrite v s = .next (reject .badOpcode s) :=
  commandWrite_of_decode_error hb ((decodeWord_eq_badOpcode_iff v).mpr hv)

/-- Settles O4: `BUSY` first, then the class of the word's number, then the operand of the command it stands for. -/
theorem commandWriteClassifiesEveryWord : Obligations.CommandWriteClassifiesEveryWord := by
  intro v s
  refine ⟨rfl, fun hb => commandWrite_overrun hb v, fun hb => ⟨commandWrite_rsvdBits hb, fun hv => ?_, fun hv hm => ?_,
    fun hv hm => ?_, fun hv hn => ?_, fun hv hn => ?_⟩⟩
  · exact commandWrite_badOpcode hb (by omega)
  · exact (commandWrite_of_toNat_eq (i := .modpow) hv s).trans (exec_modpow_rejected hb hm)
  · exact (commandWrite_of_toNat_eq (i := .modpow) hv s).trans (exec_modpow_accepted hb hm)
  · exact (commandWrite_of_toNat_eq (i := .isprime) hv s).trans (exec_isprime_rejected hb hn)
  · exact (commandWrite_of_toNat_eq (i := .isprime) hv s).trans (exec_isprime_accepted hb hn)

/-- Settles O8: the two fields of the word put its number into the class that is rejected. -/
theorem badWordTakesRejection : Obligations.BadWordTakesRejection := by
  intro v s hb
  refine ⟨fun hrsv => ?_, fun hrsv h1 h2 => ?_⟩
  · exact ⟨_, commandWrite_rsvdBits hb (by omega), reject_effect .rsvdBits s⟩
  · exact ⟨_, commandWrite_badOpcode hb (by omega), reject_effect .badOpcode s⟩

/-- Settles O7: the command's own check rejects, and the write of its word is the command. -/
theorem badOperandTakesRejection : Obligations.BadOperandTakesRejection := by
  refine ⟨fun s hb hm => ?_, fun s hb hn => ?_⟩
  · have hexec := exec_modpow_rejected hb hm
    exact ⟨_, hexec, (commandWrite_encode .modpow s).trans hexec, reject_effect .modZero s⟩
  · have hexec := exec_isprime_rejected hb hn
    exact ⟨_, hexec, (commandWrite_encode .isprime s).trans hexec, reject_effect .nLt2 s⟩

/-! Acceptance -/

/-- Settles O5: the state that `Accept(MODPOW)` makes, field by field. -/
theorem modpowIsAccepted : Obligations.ModpowIsAccepted := fun s hb hm =>
  ⟨acceptModpow s, exec_modpow_accepted hb hm, rfl, rfl, rfl, rfl, rfl, rfl, rfl, rfl, rfl, rfl, rfl,
    State.irq_of_not_done rfl⟩

/-- Settles O6: the state that `Accept(ISPRIME)` makes, field by field. -/
theorem isprimeIsAccepted : Obligations.IsprimeIsAccepted := fun s hb hn =>
  ⟨acceptIsprime s, exec_isprime_accepted hb hn, rfl, rfl, rfl, rfl, rfl, rfl, rfl, rfl, rfl, State.irq_of_not_done rfl⟩

/-- The cycle of a command's write on a block whose engine is idle is the command alone: the engine takes no step in it,
whatever the turns say (40_command_dispatch.md R111). -/
theorem step_of_command {s : State} {i : Instr} {bind : Option String} {rest : List HostOp} (hidle : s.engine.state = .idle)
    (h : s.env.host = .access { we := true, addr := RegName.cmd.index, data := encode i } bind :: rest) :
    step s = exec i { s with env := { host := rest, turns := s.env.turns.tail, busRdata := none, vars := s.env.vars } } := by
  rw [step_of_command_write h, commandWrite_encode, engineTurn_of_idle hidle]
  exact andThen_pure _

/-- Settles O13: `BUSY = 0` makes the engine idle at the start of the cycle, so that the cycle is the acceptance alone. -/
theorem acceptingCycleTakesNoEngineStep : Obligations.AcceptingCycleTakesNoEngineStep := by
  intro s bind rest i hi hb hm hn h
  have hstep := step_of_command (hi.idle_of_not_busy hb) h
  cases i with
  | modpow =>
    exact ⟨_, hstep.trans (exec_modpow_accepted hb (hm rfl)), State.irq_of_not_done rfl, rfl, rfl, fun _ => rfl, nofun⟩
  | isprime =>
    exact ⟨_, hstep.trans (exec_isprime_accepted hb (hn rfl)), State.irq_of_not_done rfl, rfl, rfl, nofun, fun _ => rfl⟩

end Sys2Proof.Machine

/-! ## The exponentiator (41_modpow.md R122 to R129) -/

namespace Sys2Proof.Machine

/-! The modular product -/

/-- The exact product's remainder: of reduced factors the 64-bit product does not wrap (41_modpow.md R122). -/
theorem modMul_toNat (x y : DWord) {m : Word} (hm : 1 ≤ m.toNat) : (modMul x y m).toNat = x.toNat * y.toNat % m.toNat := by
  have hreduced (z : DWord) : z.toNat % m.toNat < 2 ^ 32 := (Nat.mod_lt _ hm).trans m.isLt
  have hprod : x.toNat % m.toNat * (y.toNat % m.toNat) < 2 ^ 64 :=
    (Nat.mul_lt_mul'' (hreduced x) (hreduced y)).trans_eq (by norm_num)
  rw [modMul, zext64_toNat, trunc32_mod_toNat _ hm, BitVec.toNat_mul, zext64_toNat, zext64_toNat, trunc32_mod_toNat _ hm,
    trunc32_mod_toNat _ hm, Nat.mod_eq_of_lt hprod, ← Nat.mul_mod]

/-- Settles O25: both factors are reduced first, so the product of 32-bit values fits in 64 bits. -/
theorem modMulIsExact : Obligations.ModMulIsExact := fun x y _ hm => ⟨modMul_toNat x y hm, modMul_lt x y hm⟩

/-! The two steps, by the exponent -/

/-- The engine with the value of a finished loop in `MP_RES` (41_modpow.md R126). -/
def Engine.withLoopResult (c : Engine) : Engine := { c with mpRes := trunc32 (c.mpAcc % zext64 c.mpM) }

theorem withLoopResult_mpRes_toNat {c : Engine} (hm : 1 ≤ c.mpM.toNat) :
    c.withLoopResult.mpRes.toNat = c.mpAcc.toNat % c.mpM.toNat := trunc32_mod_toNat _ hm

/-- The engine at the start of the loop of `MpCall(base, e, m, ret)` (41_modpow.md R124). -/
def Engine.withLoop (c : Engine) (base e m : Word) (ret : RetTo) : Engine :=
  { c with mpAcc := 1#64, mpB := zext64 base, mpE := e, mpM := m, mpRet := ret, state := .mpLoop }

theorem mpCall_of_zero {base e m : Word} {ret : RetTo} {c : Engine} (he : e.toNat = 0) :
    mpCall base e m ret c = returnTo ret { c with mpRes := 1#32 } := if_pos ((word_eq_zero_iff e).mpr he)

theorem mpCall_of_pos {base e m : Word} {ret : RetTo} {c : Engine} (he : 1 ≤ e.toNat) :
    mpCall base e m ret c = (c.withLoop base e m ret, none) := if_neg (ne_zero_of_one_le he)

section
variable {c : Engine}

theorem coreStep_mpStart (hs : c.state = .mpStart) : coreStep c = .next (mpCall c.wA c.wE c.wM .host c) := by
  rw [coreStep, hs]
  rfl

theorem coreStep_mpStart_of_zero (hs : c.state = .mpStart) (he : c.wE.toNat = 0) :
    coreStep c = .next (returnTo .host { c with mpRes := 1#32 }) := by
  rw [coreStep_mpStart hs, mpCall_of_zero he]

theorem coreStep_mpStart_of_pos (hs : c.state = .mpStart) (he : 1 ≤ c.wE.toNat) :
    coreStep c = .next (c.withLoop c.wA c.wE c.wM .host, none) := by
  rw [coreStep_mpStart hs, mpCall_of_pos he]

theorem coreStep_mpLoop_of_pos (hs : c.state = .mpLoop) (hm : 1 ≤ c.mpM.toNat) (he : 1 ≤ c.mpE.toNat) :
    coreStep c = .next (mpIterate c, none) := by
  rw [coreStep, hs]
  simp only [stepMpLoop, if_neg (ne_zero_of_one_le hm), if_neg (ne_zero_of_one_le he)]

theorem coreStep_mpLoop_of_zero (hs : c.state = .mpLoop) (hm : 1 ≤ c.mpM.toNat) (he : c.mpE.toNat = 0) :
    coreStep c = .next (returnTo c.mpRet c.withLoopResult) := by
  rw [coreStep, hs]
  simp only [stepMpLoop, if_neg (ne_zero_of_one_le hm), if_pos ((word_eq_zero_iff _).mpr he)]
  rfl

end

/-- An engine step of the block is the step of its engine's registers, with the completion's writes. -/
theorem engineStep_of_coreStep {s : State} {n : EngineNext} (h : coreStep s.engine = .next n) :
    engineStep s = .next (settle n s) := by
  rw [engineStep, h]

/-- Settles O26: `MpCall` for the host, by the exponent. -/
theorem modpowStartStep : Obligations.ModpowStartStep := fun s hs =>
  ⟨fun he => ⟨_, engineStep_of_coreStep (coreStep_mpStart_of_zero hs he), rfl, rfl, rfl⟩,
    fun he => ⟨_, engineStep_of_coreStep (coreStep_mpStart_of_pos hs he), rfl, rfl, zext64_toNat s.engine.wA, rfl⟩⟩

/-! One iteration, as numbers -/

section
variable {c : Engine}

theorem mpIterate_mpE_toNat (c : Engine) : (mpIterate c).mpE.toNat = c.mpE.toNat / 2 := shiftRight_one_toNat c.mpE

theorem mpIterate_mpB_toNat (hm : 1 ≤ c.mpM.toNat) : (mpIterate c).mpB.toNat = c.mpB.toNat * c.mpB.toNat % c.mpM.toNat :=
  modMul_toNat _ _ hm

/-- The fold reads the old base (41_modpow.md R126, 70_reset_and_hazards.md R245). -/
theorem mpIterate_mpAcc_toNat (hm : 1 ≤ c.mpM.toNat) :
    (mpIterate c).mpAcc.toNat =
      if c.mpE.toNat % 2 = 1 then c.mpAcc.toNat * c.mpB.toNat % c.mpM.toNat else c.mpAcc.toNat := by
  simp only [mpIterate, getLsbD_zero_eq, decide_eq_true_eq, apply_ite BitVec.toNat, modMul_toNat _ _ hm]

end

/-- Settles O27: the iteration's three registers as numbers. -/
theorem loopStepFoldsAndSquares : Obligations.LoopStepFoldsAndSquares := fun s hs hm he =>
  ⟨_, engineStep_of_coreStep (coreStep_mpLoop_of_pos hs hm he), rfl, rfl, mpIterate_mpAcc_toNat hm, mpIterate_mpB_toNat hm,
    mpIterate_mpE_toNat s.engine, rfl⟩

/-- Settles O28: `Return(MP_RET)` after the loop, by the caller. -/
theorem loopReturnGoesToCaller : Obligations.LoopReturnGoesToCaller := by
  intro s hs hm he
  have hres := withLoopResult_mpRes_toNat hm
  refine ⟨_, engineStep_of_coreStep (coreStep_mpLoop_of_zero hs hm he), ?_⟩
  cases s.engine.mpRet with
  | host => exact ⟨rfl, hres, rfl, fun _ => ⟨rfl, rfl⟩, nofun, nofun⟩
  | ptPowret => exact ⟨rfl, hres, rfl, nofun, fun _ => ⟨rfl, rfl⟩, nofun⟩
  | ptSqret => exact ⟨rfl, hres, rfl, nofun, nofun, fun _ => ⟨rfl, rfl⟩⟩

/-! The loop's value -/

/-- The value the loop is computing, which every iteration keeps (41_modpow.md R129). -/
def Engine.power (c : Engine) : Nat := c.mpAcc.toNat * c.mpB.toNat ^ c.mpE.toNat % c.mpM.toNat

/-- Square and multiply: folding the lowest bit of the exponent, squaring the base and halving the exponent keep the power. -/
theorem fold_mul_square_pow_mod (a b e m : Nat) :
    (if e % 2 = 1 then a * b % m else a) * (b * b % m) ^ (e / 2) % m = a * b ^ e % m := by
  have hsquare : (b * b % m) ^ (e / 2) ≡ b ^ (2 * (e / 2)) [MOD m] := by
    rw [pow_mul, pow_two]
    exact (Nat.mod_modEq _ _).pow _
  obtain heven | hodd := Nat.mod_two_eq_zero_or_one e
  · have he : 2 * (e / 2) = e := by omega
    rw [if_neg (by omega)]
    calc a * (b * b % m) ^ (e / 2)
      _ ≡ a * b ^ (2 * (e / 2)) [MOD m] := hsquare.mul_left a
      _ = a * b ^ e := by rw [he]
  · have he : e = 2 * (e / 2) + 1 := by omega
    rw [if_pos hodd]
    calc a * b % m * (b * b % m) ^ (e / 2)
      _ ≡ a * b * b ^ (2 * (e / 2)) [MOD m] := (Nat.mod_modEq _ _).mul hsquare
      _ = a * b ^ (2 * (e / 2) + 1) := by rw [pow_succ', mul_assoc]
      _ = a * b ^ e := by rw [← he]

theorem mpIterate_power {c : Engine} (hm : 1 ≤ c.mpM.toNat) : (mpIterate c).power = c.power := by
  rw [Engine.power, mpIterate_mpAcc_toNat hm, mpIterate_mpB_toNat hm, mpIterate_mpE_toNat]
  exact fold_mul_square_pow_mod _ _ _ _

/-- A call's loop starts with the value of the spec (41_modpow.md R124, R129). -/
theorem withLoop_power {base e m : Word} {ret : RetTo} {c : Engine} (he : 1 ≤ e.toNat) :
    (c.withLoop base e m ret).power = modpowSpec base.toNat e.toNat m.toNat := by
  have hbase : (c.withLoop base e m ret).power = 1 * (zext64 base).toNat ^ e.toNat % m.toNat := rfl
  rw [hbase, one_mul, zext64_toNat, modpowSpec, if_neg (Nat.one_le_iff_ne_zero.mp he)]

/-- A finished loop leaves its value in `MP_RES`. -/
theorem withLoopResult_eq_power {c : Engine} (hm : 1 ≤ c.mpM.toNat) (he : c.mpE.toNat = 0) :
    c.withLoopResult.mpRes.toNat = c.power := by
  rw [withLoopResult_mpRes_toNat hm, Engine.power, he, pow_zero, mul_one]

end Sys2Proof.Machine

/-! ## A running command under host traffic (70_reset_and_hazards.md R239, R243) -/

namespace Sys2Proof.Machine

/-! Steps that answer -/

/-- A cycle in a state of the invariant answers whatever the port presents, reset included. -/
theorem step_total {s : State} {p : PortIn} (hi : s.Inv) (hp : portIn s = .next p) : ∃ t, step s = .next t := by
  obtain ⟨- | -, x⟩ := p
  · cases hb : s.regs.busy with
    | true =>
      obtain ⟨t, ht, -⟩ := step_progress hi hb hp
      exact ⟨t, ht⟩
    | false =>
      obtain ⟨u, hu, -⟩ := busAccess_total x (advance (.presenting x) s)
      exact ⟨u, step_of_access hp rfl hu (by rw [hi.no_turn_of_not_busy hb]; rfl)⟩
  · exact ⟨resetEdge (advance { rst := true, access := x } s), by rw [step, cycle, hp]; rfl⟩

/-- The port expresses every host operation but a mapped access. -/
theorem portIn_of_not_mapped {s : State} (h : ∀ r rest, s.env.host ≠ .mapped r :: rest) : ∃ p, portIn s = .next p := by
  unfold portIn
  split
  case h_4 r rest hhost => exact absurd hhost (h r rest)
  all_goals exact ⟨_, rfl⟩

/-- Settles O43: the engine's step answers in the invariant, and of the host's operations only mapped accesses can stop a cycle. -/
theorem noStopOutsideMappedAccesses : Obligations.NoStopOutsideMappedAccesses := by
  intro s hi
  refine ⟨?_, fun h => ?_, fun r rest x hhost hx => step_total hi (portIn_of_mapped hhost hx)⟩
  · by_cases hidle : s.engine.state = .idle
    · exact ⟨s, engineStep_idle hidle⟩
    · obtain ⟨t, ht, -⟩ := engineStep_progress hidle hi.2.2
      exact ⟨t, ht⟩
  · obtain ⟨p, hp⟩ := portIn_of_not_mapped h
    exact step_total hi hp

/-! Host traffic -/

theorem portIn_of_traffic {s : State} (h : s.env.host.all HostOp.isTraffic = true) :
    ∃ x, portIn s = .next (.presenting x) := by
  unfold portIn
  split <;> rename_i hhost
  case h_4 | h_7 => simp [hhost, HostOp.isTraffic] at h
  all_goals exact ⟨_, rfl⟩

theorem hostAfter_traffic {s : State} (h : s.env.host.all HostOp.isTraffic = true) :
    (hostAfter s).all HostOp.isTraffic = true := by
  have htail (op : HostOp) (rest : List HostOp) (hhost : s.env.host = op :: rest) : rest.all HostOp.isTraffic = true := by
    rw [hhost, List.all_cons, Bool.and_eq_true] at h
    exact h.2
  unfold hostAfter
  split <;> rename_i hhost
  case h_1 => rfl
  case h_5 | h_6 =>
    split
    case isTrue => exact htail _ _ hhost
    case isFalse => exact h
  all_goals exact htail _ _ hhost

/-! What a running command leads to -/

/-- A next state of the engine goes on within `I`, or completes with values in `V`. -/
def GoesOn (I : Engine → Prop) (V : Completion → Prop) (n : EngineNext) : Prop :=
  match n.2 with
  | none => I n.1
  | some v => V v

/-- In states of the invariant every engine step from `I` goes on within `I`, until one completes with values in `V`. -/
def LeadsTo (I : Engine → Prop) (V : Completion → Prop) : Prop :=
  ∀ c n, c.Inv → I c → coreStep c = .next n → GoesOn I V n

/-- What the result registers hold, as the values of a completion (10_state.md R36 to R40). -/
def Regs.shown (r : Regs) : Completion where
  res := r.result
  exit := r.infoExit
  bt := r.infoBt
  wit := r.witness
  d := r.dreg
  r := r.rreg

theorem engineStep_effect {s t : State} (h : engineStep s = .next t) : EngineEffect true s t := by
  obtain ⟨c, ⟨hc, rfl⟩ | ⟨v, hc, rfl⟩⟩ := engineStep_cases h
  · exact .moved c rfl hc
  · exact .completed c v rfl hc

/-- How a step leaves a running command: still running within `I` with the old results, or complete with values in `V`. -/
def State.onWay (I : Engine → Prop) (V : Completion → Prop) (old : Regs) (t : State) : Prop :=
  (t.regs.busy = true ∧ I t.engine ∧ t.regs.SameResults old) ∨
    (t.regs.busy = false ∧ t.regs.done = true ∧ V t.regs.shown)

section
variable {I : Engine → Prop} {V : Completion → Prop} {s t u : State}

/-- The engine's part of a running command's cycle goes on with the command or completes it. -/
theorem EngineEffect.onWay {turn : Bool} (h : EngineEffect turn u t) (hl : LeadsTo I V) (hi : u.engine.Inv)
    (hb : u.regs.busy = true) (hI : I u.engine) : t.onWay I V u.regs := by
  cases h with
  | held => exact .inl ⟨hb, hI, rfl, rfl, rfl, rfl, rfl, rfl⟩
  | moved c _ hc => exact .inl ⟨hb, hl _ _ hi hI hc, rfl, rfl, rfl, rfl, rfl, rfl⟩
  | completed c v _ hc => exact .inr ⟨rfl, rfl, hl _ _ hi hI hc⟩

theorem Regs.SameResults.trans {r r' r'' : Regs} (h : r.SameResults r') (h' : r'.SameResults r'') : r.SameResults r'' := by
  obtain ⟨hres, hd, hr, hexit, hbt, hw⟩ := h
  obtain ⟨hres', hd', hr', hexit', hbt', hw'⟩ := h'
  exact ⟨hres.trans hres', hd.trans hd', hr.trans hr', hexit.trans hexit', hbt.trans hbt', hw.trans hw'⟩

/-- A cycle without reset of a running command goes on with it or completes it, whatever the access is. -/
theorem step_onWay {x : Option Xact} (hl : LeadsTo I V) (hi : s.Inv) (hb : s.regs.busy = true) (hI : I s.engine)
    (hp : portIn s = .next (.presenting x)) (h : step s = .next t) : t.onWay I V s.regs := by
  cases step_effect h with
  | reset _ hr => exact absurd ((resetPresented_eq hp).symm.trans hr) Bool.false_ne_true
  | clocked p u _ _ _ ha he =>
    obtain ⟨heng, hub⟩ := ha.engine_of_busy hb
    rw [advance_engine] at heng
    obtain ⟨htb, htI, hsame⟩ | hdone := he.onWay hl (heng ▸ hi.2.2) hub (heng ▸ hI)
    · exact .inl ⟨htb, htI, hsame.trans ha.sameResults⟩
    · exact .inr hdone

/-! The run to the completion -/

/-- The cycle that completes the command. -/
theorem completesUnderTraffic_of_step {n : Nat} {P : State → Prop} (hb : s.regs.busy = true) (h : step s = .next t)
    (htb : t.regs.busy = false) (htd : t.regs.done = true) (hP : P t) : completesUnderTraffic (n + 1) s P := by
  refine ⟨1, t, Nat.succ_pos n, cycles_succ_of_step h, htb, htd, hP, fun j hj => ?_⟩
  obtain rfl := Nat.lt_one_iff.mp hj
  exact ⟨s, rfl, hb, rfl, rfl, rfl, rfl, rfl, rfl⟩

/-- A cycle before the one that completes the command. -/
theorem completesUnderTraffic_succ {n : Nat} {P : State → Prop} (hb : s.regs.busy = true) (h : step s = .next t)
    (hsame : t.regs.SameResults s.regs) (ht : completesUnderTraffic n t P) : completesUnderTraffic (n + 1) s P := by
  obtain ⟨k, u, hk, hrun, hub, hud, hP, hbefore⟩ := ht
  refine ⟨k + 1, u, Nat.succ_le_succ hk, (cycles_succ_of_step h).trans hrun, hub, hud, hP, fun j hj => ?_⟩
  cases j with
  | zero => exact ⟨s, rfl, hb, rfl, rfl, rfl, rfl, rfl, rfl⟩
  | succ j =>
    obtain ⟨w, hw, hwb, hw'⟩ := hbefore j (Nat.lt_of_succ_lt_succ hj)
    exact ⟨w, (cycles_succ_of_step h).trans hw, hwb, Regs.SameResults.trans hw' hsame⟩

/-- A cycle of traffic while a command runs: it answers, goes on with the command or completes it, and leaves traffic to come. -/
theorem step_of_traffic_onWay (hl : LeadsTo I V) (hi : s.Inv) (hb : s.regs.busy = true) (hI : I s.engine)
    (htraffic : s.env.host.all HostOp.isTraffic = true) :
    ∃ t, step s = .next t ∧ t.onWay I V s.regs ∧ t.env.host.all HostOp.isTraffic = true ∧ t.cyclesLeft < s.cyclesLeft := by
  obtain ⟨x, hp⟩ := portIn_of_traffic htraffic
  obtain ⟨t, ht, henv, hlt⟩ := step_progress hi hb hp
  exact ⟨t, ht, step_onWay hl hi hb hI hp ht, henv ▸ hostAfter_traffic htraffic, hlt⟩

/-- A running command that leads to `V` completes with values in `V` under any traffic and any stalls, within the stalls and the
bound on its steps. -/
theorem completesUnderTraffic_of_leadsTo (hl : LeadsTo I V) {n : Nat} (hi : s.Inv) (hb : s.regs.busy = true) (hI : I s.engine)
    (htraffic : s.env.host.all HostOp.isTraffic = true) (hn : s.cyclesLeft ≤ n) :
    completesUnderTraffic n s fun u => V u.regs.shown := by
  induction n generalizing s with
  | zero =>
    obtain ⟨t, -, -, -, hlt⟩ := step_of_traffic_onWay hl hi hb hI htraffic
    exact absurd (hlt.trans_le hn) (Nat.not_lt_zero _)
  | succ n ih =>
    obtain ⟨t, ht, honWay, htraffic', hlt⟩ := step_of_traffic_onWay hl hi hb hI htraffic
    obtain ⟨htb, htI, hsame⟩ | ⟨htb, htd, hV⟩ := honWay
    · exact completesUnderTraffic_succ hb ht hsame (ih (step_keeps_inv hi ht) htb htI htraffic' (by omega))
    · exact completesUnderTraffic_of_step hb ht htb htd hV

/-- An engine step of a running command: it answers, keeps the invariant, and goes on with the command or completes it. -/
theorem engineStep_onWay (hl : LeadsTo I V) (hi : s.Inv) (hb : s.regs.busy = true) (hI : I s.engine) :
    ∃ t, engineStep s = .next t ∧ t.Inv ∧ t.onWay I V s.regs ∧ t.engine.stepsLeft < s.engine.stepsLeft := by
  have hrun := hi.1.mp hb
  obtain ⟨t, ht, hlt⟩ := engineStep_progress hrun hi.2.2
  have heffect := engineStep_effect ht
  exact ⟨t, ht, heffect.keeps_inv hi fun _ => hrun, heffect.onWay hl hi.2.2 hb hI, hlt⟩

/-- The engine alone completes a running command that leads to `V` with values in `V`, within the bound on its steps. -/
theorem completesWithin_of_leadsTo (hl : LeadsTo I V) {n : Nat} (hi : s.Inv) (hb : s.regs.busy = true) (hI : I s.engine)
    (hn : s.engine.stepsLeft ≤ n) : completesWithin n s fun u => V u.regs.shown := by
  induction n generalizing s with
  | zero =>
    obtain ⟨t, -, -, -, hlt⟩ := engineStep_onWay hl hi hb hI
    exact absurd (hlt.trans_le hn) (Nat.not_lt_zero _)
  | succ n ih =>
    obtain ⟨t, ht, hti, honWay, hlt⟩ := engineStep_onWay hl hi hb hI
    obtain ⟨htb, htI, -⟩ | ⟨htb, -, hV⟩ := honWay
    · obtain ⟨k, u, hk, hu, hdone⟩ := ih hti htb htI (by omega)
      exact ⟨k + 1, u, Nat.succ_le_succ hk, (engineRun_succ_of_step ht).trans hu, hdone⟩
    · exact ⟨1, t, Nat.succ_pos n, engineRun_succ_of_step ht, hti.idle_of_not_busy htb, hV⟩

end

end Sys2Proof.Machine

/-! ## What a MODPOW computes, and in how many steps (41_modpow.md R120, R129, R131) -/

namespace Sys2Proof.Machine

/-! The result -/

/-- The engine runs a MODPOW whose result is `r`: before its call, or in the loop with that value (41_modpow.md R125, R126). -/
def Engine.computes (r : Nat) (c : Engine) : Prop :=
  (c.state = .mpStart ∧ modpowSpec c.wA.toNat c.wE.toNat c.wM.toNat = r) ∨
    (c.state = .mpLoop ∧ c.mpRet = .host ∧ c.power = r)

/-- The values of a MODPOW's completion with the result `r`: the diagnostic registers 0 (41_modpow.md R128). -/
def Completion.isPower (r : Nat) (v : Completion) : Prop :=
  v.res.toNat = r ∧ v.d = 0#32 ∧ v.r = 0#5 ∧ v.wit = 0#32 ∧ v.exit = .none ∧ v.bt = 0#2

theorem modpowCompletion_isPower (c : Engine) : (modpowCompletion c).isPower c.mpRes.toNat := ⟨rfl, rfl, rfl, rfl, rfl, rfl⟩

theorem Engine.Inv.one_le_mpM {c : Engine} (h : c.Inv) (hs : c.state = .mpLoop) : 1 ≤ c.mpM.toNat := by
  rw [Engine.Inv, hs] at h
  exact h.1

/-- Every step of a MODPOW keeps the value it computes, and its completion writes that value (41_modpow.md R129). -/
theorem modpow_leadsTo (r : Nat) : LeadsTo (Engine.computes r) (Completion.isPower r) := by
  intro c n hi hc h
  obtain ⟨hs, hr⟩ | ⟨hs, hret, hr⟩ := hc
  · obtain he | he := Nat.eq_zero_or_pos c.wE.toNat
    · cases h.symm.trans (coreStep_mpStart_of_zero hs he)
      rw [modpowSpec, if_pos he] at hr
      exact hr ▸ modpowCompletion_isPower { c with mpRes := 1#32 }
    · cases h.symm.trans (coreStep_mpStart_of_pos hs he)
      exact .inr ⟨rfl, rfl, (withLoop_power he).trans hr⟩
  · have hm := hi.one_le_mpM hs
    obtain he | he := Nat.eq_zero_or_pos c.mpE.toNat
    · cases h.symm.trans (hret ▸ coreStep_mpLoop_of_zero hs hm he)
      exact hr ▸ withLoopResult_eq_power hm he ▸ modpowCompletion_isPower c.withLoopResult
    · cases h.symm.trans (coreStep_mpLoop_of_pos hs hm he)
      exact .inr ⟨hs, hret, (mpIterate_power hm).trans hr⟩

theorem acceptModpow_computes (s : State) :
    (acceptModpow s).engine.computes (modpowSpec s.regs.opa.toNat s.regs.opb.toNat s.regs.opm.toNat) := .inl ⟨rfl, rfl⟩

/-- Settles O46: the loop keeps `MP_ACC · MP_B ^ MP_E mod MP_M`, and neither traffic nor stalls reach the loop. -/
theorem modpowComputesPower : Obligations.ModpowComputesPower := fun s hb hm htraffic =>
  ⟨acceptModpow s, exec_modpow_accepted hb hm,
    completesUnderTraffic_of_leadsTo (modpow_leadsTo _) (acceptModpow_inv hm) rfl (acceptModpow_computes s) htraffic
      (Nat.add_le_add_left (acceptModpow_stepsLeft_le s) _)⟩

/-- Fermat's little theorem, as MODPOW's result (95_test_vectors.md 1.2). -/
theorem modpowSpec_fermat {p b : Nat} (hp : p.Prime) (hb : ¬ p ∣ b) : modpowSpec b (p - 1) p = 1 := by
  have hcoprime : b.Coprime p := ((Nat.Prime.coprime_iff_not_dvd hp).mpr hb).symm
  have hfermat : b ^ (p - 1) ≡ 1 [MOD p] := Nat.totient_prime hp ▸ Nat.ModEq.pow_totient hcoprime
  have hexp : p - 1 ≠ 0 := Nat.sub_ne_zero_of_lt hp.one_lt
  rw [modpowSpec, if_neg hexp, hfermat, Nat.mod_eq_of_lt hp.one_lt]

/-- Settles O48: the power is 1 by Fermat's little theorem. -/
theorem modpowFermat : Obligations.ModpowFermat := by
  intro s t hb hp hdvd he hexec
  have hm := hp.one_le
  cases hexec.symm.trans (exec_modpow_accepted hb hm)
  have hcomputes := acceptModpow_computes s
  rw [he, modpowSpec_fermat hp hdvd] at hcomputes
  obtain ⟨k, u, hk, hrun, hidle, hres, -⟩ :=
    completesWithin_of_leadsTo (modpow_leadsTo 1) (acceptModpow_inv hm) rfl hcomputes (acceptModpow_stepsLeft_le s)
  exact ⟨k, u, hk, hrun, hidle, hres⟩

/-! The exact number of engine steps -/

/-- The engine alone completes the command in its step `k`, and in none before. -/
def State.completesAt (k : Nat) (s : State) : Prop :=
  (∃ u, engineRun k s = .next u ∧ u.engine.state = .idle ∧ u.regs.busy = false) ∧
    ∀ j, j < k → ∃ u, engineRun j s = .next u ∧ u.regs.busy = true

theorem completesAt_zero {s : State} (hidle : s.engine.state = .idle) (hb : s.regs.busy = false) : s.completesAt 0 :=
  ⟨⟨s, rfl, hidle, hb⟩, fun _ hj => absurd hj (Nat.not_lt_zero _)⟩

theorem completesAt_succ {k : Nat} {s t : State} (hb : s.regs.busy = true) (h : engineStep s = .next t)
    (ht : t.completesAt k) : s.completesAt (k + 1) := by
  obtain ⟨⟨u, hu, hdone⟩, hbefore⟩ := ht
  refine ⟨⟨u, (engineRun_succ_of_step h).trans hu, hdone⟩, fun j hj => ?_⟩
  cases j with
  | zero => exact ⟨s, rfl, hb⟩
  | succ j =>
    obtain ⟨w, hw, hwb⟩ := hbefore j (Nat.lt_of_succ_lt_succ hj)
    exact ⟨w, (engineRun_succ_of_step h).trans hw, hwb⟩

theorem size_eq_size_half_add_one {e : Nat} (h : e ≠ 0) : Nat.size e = Nat.size (e / 2) + 1 := by
  have hhalf := Nat.lt_size_self (e / 2)
  have hle : Nat.size e ≤ Nat.size (e / 2) + 1 := Nat.size_le.mpr (by rw [pow_succ]; omega)
  exact le_antisymm hle (size_half_lt h)

theorem size_eq_log2_add_one {e : Nat} (h : e ≠ 0) : Nat.size e = Nat.log2 e + 1 :=
  le_antisymm (Nat.size_le.mpr Nat.lt_log2_self) (Nat.lt_size.mpr (Nat.log2_self_le h))

/-- The loop takes one step for each bit of the exponent, and one for its return (41_modpow.md R131). -/
theorem mpLoop_completesAt {s : State} {k : Nat} (hs : s.engine.state = .mpLoop) (hret : s.engine.mpRet = .host)
    (hm : 1 ≤ s.engine.mpM.toNat) (hb : s.regs.busy = true) (hk : Nat.size s.engine.mpE.toNat = k) :
    s.completesAt (k + 1) := by
  induction k generalizing s with
  | zero =>
    have hreturn := engineStep_of_coreStep (coreStep_mpLoop_of_zero hs hm (Nat.size_eq_zero.mp hk))
    rw [hret] at hreturn
    exact completesAt_succ hb hreturn (completesAt_zero rfl rfl)
  | succ k ih =>
    have he : s.engine.mpE.toNat ≠ 0 := fun h0 => by rw [h0] at hk; cases hk
    have hsize := size_eq_size_half_add_one he
    refine completesAt_succ hb (engineStep_of_coreStep (coreStep_mpLoop_of_pos hs hm (Nat.one_le_iff_ne_zero.mpr he))) ?_
    refine ih hs hret hm hb ?_
    show Nat.size (mpIterate s.engine).mpE.toNat = k
    rw [mpIterate_mpE_toNat]
    omega

/-- Settles O47: one step for the call, and those of the loop where the exponent is not 0. -/
theorem modpowEngineStepCount : Obligations.ModpowEngineStepCount := by
  intro s t hb hm hexec
  cases hexec.symm.trans (exec_modpow_accepted hb hm)
  show (acceptModpow s).completesAt (if s.regs.opb.toNat = 0 then 1 else Nat.log2 s.regs.opb.toNat + 3)
  by_cases he : s.regs.opb.toNat = 0
  · rw [if_pos he]
    exact completesAt_succ rfl (engineStep_of_coreStep (coreStep_mpStart_of_zero rfl he)) (completesAt_zero rfl rfl)
  · rw [if_neg he]
    have hstart := coreStep_mpStart_of_pos (c := (acceptModpow s).engine) rfl (Nat.one_le_iff_ne_zero.mpr he)
    exact completesAt_succ rfl (engineStep_of_coreStep hstart) (mpLoop_completesAt rfl rfl hm rfl (size_eq_log2_add_one he))

end Sys2Proof.Machine

/-! ## The witness engine's steps (42_isprime.md R161 to R167) -/

namespace Sys2Proof.Machine

/-! The steps, by what each of them tests -/

theorem eq_sub_one_iff {v n : Word} (hn : 1 ≤ n.toNat) : v = n - 1#32 ↔ v.toNat = n.toNat - 1 := by
  rw [← BitVec.toNat_inj, sub_one_toNat hn]

theorem getLsbD_zero_eq_false_iff (v : Word) : v.getLsbD 0 = false ↔ v.toNat % 2 = 0 := by
  rw [getLsbD_zero_eq, decide_eq_false_iff_not, Nat.mod_two_not_eq_one]

/-- The values of a verdict of primality after the base loop has begun (42_isprime.md R163). -/
def Engine.passCompletion (c : Engine) (exit : Exit) (bt : BitVec 2) : Completion :=
  { res := 1#32, exit := exit, bt := bt, wit := 0#32, d := c.ptD, r := c.ptR }

/-- The values of a verdict of compositeness by the witness `b` (42_isprime.md R165). -/
def Engine.witnessCompletion (c : Engine) (b : Word) : Completion :=
  { res := 0#32, exit := .witness, bt := c.ptI + 1#2, wit := b, d := c.ptD, r := c.ptR }

section
variable {c : Engine}

theorem coreStep_ptStart_small (hs : c.state = .ptStart) (hn : c.ptN.toNat = 2 ∨ c.ptN.toNat = 3) :
    coreStep c = .next (ptComplete (fastCompletion 1#32 .fastSmall) c) := by
  rw [coreStep, hs]
  exact if_pos (hn.imp BitVec.eq_of_toNat_eq BitVec.eq_of_toNat_eq)

/-- `n` is neither 2 nor 3, as the comparisons of PT_START test it. -/
theorem not_two_or_three {v : Word} (h : 4 ≤ v.toNat) : ¬ (v = 2#32 ∨ v = 3#32) := by
  rintro (rfl | rfl)
  · exact absurd h (by decide)
  · exact absurd h (by decide)

theorem coreStep_ptStart_even (hs : c.state = .ptStart) (hn : 4 ≤ c.ptN.toNat) (heven : c.ptN.toNat % 2 = 0) :
    coreStep c = .next (ptComplete (fastCompletion 0#32 .fastEven) c) := by
  rw [coreStep, hs]
  exact (if_neg (not_two_or_three hn)).trans (if_pos ((getLsbD_zero_eq_false_iff _).mpr heven))

theorem coreStep_ptStart_odd (hs : c.state = .ptStart) (hn : 4 ≤ c.ptN.toNat) (hodd : c.ptN.toNat % 2 = 1) :
    coreStep c = .next ({ c with ptD := c.ptN - 1#32, ptR := 0#5, state := .ptDecomp }, none) := by
  rw [coreStep, hs]
  exact (if_neg (not_two_or_three hn)).trans (if_neg (mt (getLsbD_zero_eq_false_iff _).mp (by omega)))

theorem coreStep_ptDecomp (hs : c.state = .ptDecomp) : coreStep c = stepPtDecomp c := by
  rw [coreStep, hs]

theorem coreStep_ptDecomp_even (hs : c.state = .ptDecomp) (heven : c.ptD.toNat % 2 = 0) :
    coreStep c = .next ({ c with ptD := c.ptD >>> 1, ptR := c.ptR + 1#5 }, none) := by
  rw [coreStep_ptDecomp hs]
  exact if_pos ((getLsbD_zero_eq_false_iff _).mpr heven)

theorem coreStep_ptDecomp_odd (hs : c.state = .ptDecomp) (hodd : c.ptD.toNat % 2 = 1) :
    coreStep c = .next ({ c with ptI := 0#2, state := .ptBase }, none) := by
  rw [coreStep_ptDecomp hs]
  exact if_neg (mt (getLsbD_zero_eq_false_iff _).mp (by omega))

theorem coreStep_ptBase_done (hs : c.state = .ptBase) (hi : baseAt c.ptI = none) :
    coreStep c = .next (ptComplete (c.passCompletion .allPassed 3#2) c) := by
  rw [coreStep, hs]
  simp only [stepPtBase, hi, Engine.passCompletion]

theorem coreStep_ptBase_early {b : Word} (hs : c.state = .ptBase) (hb : baseAt c.ptI = some b)
    (hn : c.ptN.toNat ≤ b.toNat) : coreStep c = .next (ptComplete (c.passCompletion .early c.ptI) c) := by
  rw [coreStep, hs]
  simp only [stepPtBase, hb, if_pos (BitVec.le_def.mpr hn), Engine.passCompletion]

theorem coreStep_ptBase_call {b : Word} (hs : c.state = .ptBase) (hd : 1 ≤ c.ptD.toNat) (hb : baseAt c.ptI = some b)
    (hn : b.toNat < c.ptN.toNat) : coreStep c = .next (c.withLoop b c.ptD c.ptN .ptPowret, none) := by
  have hle : ¬ c.ptN ≤ b := fun h => absurd (BitVec.le_def.mp h) (Nat.not_le.mpr hn)
  rw [coreStep, hs]
  simp only [stepPtBase, hb, if_neg hle, mpCall_of_pos hd]

theorem coreStep_ptPowret_pass (hs : c.state = .ptPowret) (hn : 1 ≤ c.ptN.toNat)
    (hm : c.mpRes.toNat = 1 ∨ c.mpRes.toNat = c.ptN.toNat - 1) :
    coreStep c = .next (nextBase { c with ptM := c.mpRes }, none) := by
  rw [coreStep, hs]
  exact if_pos (hm.imp BitVec.eq_of_toNat_eq (eq_sub_one_iff hn).mpr)

theorem coreStep_ptPowret_square (hs : c.state = .ptPowret) (hn : 1 ≤ c.ptN.toNat)
    (hm : ¬ (c.mpRes.toNat = 1 ∨ c.mpRes.toNat = c.ptN.toNat - 1)) :
    coreStep c = .next ({ c with ptM := c.mpRes, ptJ := 0#5, state := .ptSq }, none) := by
  rw [coreStep, hs]
  exact if_neg (mt (Or.imp (congrArg BitVec.toNat) (eq_sub_one_iff hn).mp) hm)

theorem coreStep_ptSq_verdict {b : Word} (hs : c.state = .ptSq) (hb : baseAt c.ptI = some b)
    (hj : c.ptJ.toNat + 1 = c.ptR.toNat) : coreStep c = .next (ptComplete (c.witnessCompletion b) c) := by
  rw [coreStep, hs]
  simp only [stepPtSq, hb, if_pos hj, Engine.witnessCompletion]

theorem coreStep_ptSq_call (hs : c.state = .ptSq) (hj : c.ptJ.toNat + 1 ≠ c.ptR.toNat) :
    coreStep c = .next (c.withLoop c.ptM 2#32 c.ptN .ptSqret, none) := by
  rw [coreStep, hs]
  exact if_neg hj

theorem coreStep_ptSqret_pass (hs : c.state = .ptSqret) (hn : 1 ≤ c.ptN.toNat) (hm : c.mpRes.toNat = c.ptN.toNat - 1) :
    coreStep c = .next (nextBase { c with ptM := c.mpRes, ptJ := c.ptJ + 1#5 }, none) := by
  rw [coreStep, hs]
  exact if_pos ((eq_sub_one_iff hn).mpr hm)

theorem coreStep_ptSqret_square (hs : c.state = .ptSqret) (hn : 1 ≤ c.ptN.toNat) (hm : c.mpRes.toNat ≠ c.ptN.toNat - 1) :
    coreStep c = .next ({ c with ptM := c.mpRes, ptJ := c.ptJ + 1#5, state := .ptSq }, none) := by
  rw [coreStep, hs]
  exact if_neg (mt (eq_sub_one_iff hn).mp hm)

/-! The counters and the bases, as numbers -/

theorem ptI_add_one_toNat (hi : c.ptI.toNat ≤ 2) : (c.ptI + 1#2).toNat = c.ptI.toNat + 1 := by
  rw [BitVec.toNat_add]
  exact Nat.mod_eq_of_lt (show c.ptI.toNat + 1 < 2 ^ 2 by omega)

/-- The count of squarings does not wrap: it stays below `r` (42_isprime.md R166, log 11). -/
theorem ptJ_add_one_toNat (hc : c.squaring) : (c.ptJ + 1#5).toNat = c.ptJ.toNat + 1 := by
  obtain ⟨-, hj, -⟩ := hc
  have hr := c.ptR.isLt
  rw [BitVec.toNat_add]
  exact Nat.mod_eq_of_lt (show c.ptJ.toNat + 1 < 2 ^ 5 by omega)

theorem Engine.decomposing.one_le_ptN (h : c.decomposing) : 1 ≤ c.ptN.toNat :=
  (by decide : 1 ≤ 5).trans h.2.1

theorem Engine.decomposed.one_le_ptD (h : c.decomposed) : 1 ≤ c.ptD.toNat := by
  obtain ⟨-, hodd, -⟩ := h
  omega

theorem Engine.Inv.squaring (h : c.Inv) (hs : c.state = .ptSqret) : c.squaring := by
  rw [Engine.Inv, hs] at h
  exact h.1

/-- The two tables of bases agree (10_state.md R45). -/
theorem baseList_getElem? (i : BitVec 2) : baseList[i.toNat]? = (baseAt i).map BitVec.toNat := by
  obtain ⟨rfl, h⟩ | ⟨rfl, h⟩ | ⟨rfl, h⟩ | ⟨rfl, h⟩ := baseAt_cases i <;> rw [h] <;> rfl

theorem baseAt_eq_none_iff (i : BitVec 2) : baseAt i = none ↔ i.toNat = 3 := by
  obtain ⟨rfl, h⟩ | ⟨rfl, h⟩ | ⟨rfl, h⟩ | ⟨rfl, h⟩ := baseAt_cases i <;> rw [h] <;> decide

end

/-! The obligations about single steps -/

/-- Settles O29: the three tests of PT_START exclude each other. -/
theorem fastPathsDecideSmallAndEven : Obligations.FastPathsDecideSmallAndEven := by
  intro s hs hn
  obtain hsmall | hbig : s.engine.ptN.toNat ≤ 3 ∨ 4 ≤ s.engine.ptN.toNat := by omega
  · exact ⟨_, engineStep_of_coreStep (coreStep_ptStart_small hs (by omega)), rfl, fun _ => ⟨rfl, rfl⟩,
      fun h => absurd h (by omega), fun h => absurd h (by omega)⟩
  · obtain heven | hodd := Nat.mod_two_eq_zero_or_one s.engine.ptN.toNat
    · exact ⟨_, engineStep_of_coreStep (coreStep_ptStart_even hs hbig heven), rfl, fun h => absurd h (by omega),
        fun _ _ => ⟨rfl, rfl⟩, fun _ h => absurd h (by omega)⟩
    · exact ⟨_, engineStep_of_coreStep (coreStep_ptStart_odd hs hbig hodd), rfl, fun h => absurd h (by omega),
        fun _ h => absurd h (by omega), fun _ _ => ⟨rfl, sub_one_toNat (by omega), rfl⟩⟩

/-- Settles O30: an even `d` is halved and the product of R51 kept; an odd one has had a halving. -/
theorem decompositionHalves : Obligations.DecompositionHalves := by
  intro s hi hs
  have hc : s.engine.decomposing := hi.2.2.decomposing (by rw [hs]; decide)
  obtain heven | hodd := Nat.mod_two_eq_zero_or_one s.engine.ptD.toNat
  · obtain ⟨-, -, hprod⟩ := halving_keeps_decomposing hc heven
    exact ⟨_, engineStep_of_coreStep (coreStep_ptDecomp_even hs heven), rfl, rfl,
      fun _ => ⟨shiftRight_one_toNat _, ptR_add_one_toNat hc heven, hprod.symm.trans hc.2.2, rfl⟩,
      fun h => absurd h (by omega)⟩
  · obtain ⟨-, -, hr⟩ := decomposed_of_odd hc hodd
    exact ⟨_, engineStep_of_coreStep (coreStep_ptDecomp_odd hs hodd), rfl, rfl, fun h => absurd h (by omega),
      fun _ => ⟨rfl, hr, Nat.le_of_lt_succ s.engine.ptR.isLt⟩⟩

/-- Settles O31: the base of `PT_I` is missing, or not below `n`, or the call's. -/
theorem baseStepTerminatesOrCalls : Obligations.BaseStepTerminatesOrCalls := by
  intro s hs hd
  have hlist := baseList_getElem? s.engine.ptI
  cases hb : baseAt s.engine.ptI with
  | none =>
    rw [hb] at hlist
    refine ⟨_, engineStep_of_coreStep (coreStep_ptBase_done hs hb), rfl, fun _ => ⟨rfl, rfl⟩, fun b h => ?_, fun b h => ?_⟩
    · cases hlist.symm.trans h
    · cases hlist.symm.trans h
  | some w =>
    rw [hb] at hlist
    have h3 : s.engine.ptI.toNat ≠ 3 := fun h => by cases hb.symm.trans ((baseAt_eq_none_iff _).mpr h)
    obtain hle | hlt := le_or_gt s.engine.ptN.toNat w.toNat
    · refine ⟨_, engineStep_of_coreStep (coreStep_ptBase_early hs hb hle), rfl, fun h => absurd h h3,
        fun b h _ => ⟨rfl, rfl⟩, fun b h hlt => ?_⟩
      cases hlist.symm.trans h
      exact absurd hle (Nat.not_le.mpr hlt)
    · refine ⟨_, engineStep_of_coreStep (coreStep_ptBase_call hs hd hb hlt), rfl, fun h => absurd h h3,
        fun b h hle => ?_, fun b h _ => ?_⟩
      · cases hlist.symm.trans h
        exact absurd hle (Nat.not_le.mpr hlt)
      · cases hlist.symm.trans h
        exact ⟨rfl, zext64_toNat w, rfl⟩

/-- Settles O32: each test reads `MP_RES`, and the counters do not wrap. -/
theorem returnTestsPassOrContinue : Obligations.ReturnTestsPassOrContinue := by
  intro s hi
  refine ⟨fun hs => ?_, fun hs => ?_⟩
  · have hc : s.engine.testing := hi.2.2.testing (by rw [hs]; decide)
    have hn := hc.1.1.one_le_ptN
    split
    case isTrue hm =>
      exact ⟨_, engineStep_of_coreStep (coreStep_ptPowret_pass hs hn hm), rfl, rfl, rfl, ptI_add_one_toNat hc.base.1, rfl⟩
    case isFalse hm => exact ⟨_, engineStep_of_coreStep (coreStep_ptPowret_square hs hn hm), rfl, rfl, rfl, rfl⟩
  · have hc : s.engine.squaring := hi.2.2.squaring hs
    have hn := hc.1.1.1.one_le_ptN
    have hj := ptJ_add_one_toNat hc
    split
    case isTrue hm =>
      exact ⟨_, engineStep_of_coreStep (coreStep_ptSqret_pass hs hn hm), rfl, rfl, rfl, hj, ptI_add_one_toNat hc.1.base.1, rfl⟩
    case isFalse hm => exact ⟨_, engineStep_of_coreStep (coreStep_ptSqret_square hs hn hm), rfl, rfl, rfl, hj, rfl⟩

/-- Settles O33: the base under test exists, so the verdict can name it. -/
theorem squaringStepJudgesOrCalls : Obligations.SquaringStepJudgesOrCalls := by
  intro s hi hs
  have hc : s.engine.testing := hi.2.2.testing (by rw [hs]; decide)
  obtain ⟨hI, b, hb, -⟩ := hc.base
  have hr : 1 ≤ s.engine.ptR.toNat := hc.1.2.2
  by_cases hj : s.engine.ptJ.toNat + 1 = s.engine.ptR.toNat
  · have hlist : baseList[s.engine.ptI.toNat]? = some b.toNat := by rw [baseList_getElem?, hb]; rfl
    exact ⟨_, engineStep_of_coreStep (coreStep_ptSq_verdict hs hb hj), rfl,
      fun _ => ⟨rfl, hlist, ptI_add_one_toNat hI, rfl⟩, fun h => absurd (by omega) h⟩
  · exact ⟨_, engineStep_of_coreStep (coreStep_ptSq_call hs hj), rfl, fun h => absurd h (by omega),
      fun _ => ⟨rfl, zext64_toNat _, rfl⟩⟩

end Sys2Proof.Machine

/-! ## What an ISPRIME computes (42_isprime.md R160 to R168) -/

namespace Sys2Proof.Machine

/-! The verdict a running ISPRIME is heading for -/

/-- The test of a square `m`, with `k` squarings left (42_isprime.md R166, R168). -/
def squarePasses (n k m : Nat) : Bool := if m = n - 1 then true else squaringsPass n k m

/-- The tests of a base from its returned power `m` on (42_isprime.md R164, R168). -/
def powerPasses (n r m : Nat) : Bool := if m = 1 ∨ m = n - 1 then true else squaringsPass n (r - 1) m

theorem basePasses_eq (n d r b : Nat) : basePasses n d r b = powerPasses n r (modpowSpec b d n) := rfl

theorem squaringsPass_succ (n k m : Nat) : squaringsPass n (k + 1) m = squarePasses n k (modpowSpec m 2 n) := rfl

/-- The verdict of the base loop from base `i` on, when the bases before it have passed. -/
def Engine.basesFrom (c : Engine) (i : Nat) : Verdict :=
  basesVerdict c.ptN.toNat c.ptD.toNat c.ptR.toNat (baseList.drop i) i

/-- The verdict when the tests of the current base end: the later bases decide, or the base is a witness. -/
def Engine.afterBase (c : Engine) (passes : Bool) : Verdict :=
  if passes then c.basesFrom (c.ptI.toNat + 1)
  else { res := 0, exit := .witness, bt := c.ptI.toNat + 1, wit := baseList.getD c.ptI.toNat 0, d := c.ptD.toNat,
         r := c.ptR.toNat }

/-- The verdict when the exponentiator returns `m` to the witness engine. -/
def Engine.verdictOfReturn (c : Engine) (ret : RetTo) (m : Nat) : Option Verdict :=
  match ret with
  | .host => none
  | .ptPowret => some (c.afterBase (powerPasses c.ptN.toNat c.ptR.toNat m))
  | .ptSqret => some (c.afterBase (squarePasses c.ptN.toNat (c.ptR.toNat - 1 - (c.ptJ.toNat + 1)) m))

/-- The verdict the engine is heading for, if it runs an ISPRIME. -/
def Engine.verdict (c : Engine) : Option Verdict :=
  match c.state with
  | .idle => none
  | .mpStart => none
  | .mpLoop => c.verdictOfReturn c.mpRet c.power
  | .ptStart => some (isPrimeVerdict c.ptN.toNat)
  | .ptDecomp =>
    let p := halveWhileEven (32 - c.ptR.toNat) c.ptD.toNat c.ptR.toNat
    some (basesVerdict c.ptN.toNat p.1 p.2 baseList 0)
  | .ptBase => some (c.basesFrom c.ptI.toNat)
  | .ptPowret => c.verdictOfReturn .ptPowret c.mpRes.toNat
  | .ptSq => some (c.afterBase (squaringsPass c.ptN.toNat (c.ptR.toNat - 1 - c.ptJ.toNat) c.ptM.toNat))
  | .ptSqret => c.verdictOfReturn .ptSqret c.mpRes.toNat

/-- A completion writes a verdict (42_isprime.md R167). -/
def Completion.writes (v : Completion) (w : Verdict) : Prop :=
  v.res.toNat = w.res ∧ v.exit = w.exit ∧ v.bt.toNat = w.bt ∧ v.wit.toNat = w.wit ∧ v.d.toNat = w.d ∧ v.r.toNat = w.r

/-- A next state of the engine is heading for the verdict `w`, or its completion writes it. -/
abbrev Reaches (w : Verdict) (n : EngineNext) : Prop :=
  GoesOn (fun c => c.verdict = some w) (fun v => v.writes w) n

/-! How the spec's loops go on -/

theorem halveWhileEven_of_even {fuel d r : Nat} (heven : d % 2 = 0) :
    halveWhileEven (fuel + 1) d r = halveWhileEven fuel (d / 2) (r + 1) := if_pos heven

theorem halveWhileEven_of_odd {fuel d r : Nat} (hodd : d % 2 = 1) : halveWhileEven fuel d r = (d, r) := by
  cases fuel with
  | zero => rfl
  | succ fuel => exact if_neg (by omega)

theorem isPrimeVerdict_of_odd {n : Nat} (hn : 4 ≤ n) (hodd : n % 2 = 1) :
    isPrimeVerdict n = basesVerdict n (decomposition n).1 (decomposition n).2 baseList 0 := by
  rw [isPrimeVerdict, if_neg (by omega), if_neg (by omega)]

section
variable {c : Engine} {b : Word}

/-- The bases from `PT_I` on start with the current one. -/
theorem drop_baseList_of_baseAt (hb : baseAt c.ptI = some b) :
    baseList.drop c.ptI.toNat = b.toNat :: baseList.drop (c.ptI.toNat + 1) := by
  have hlist : baseList[c.ptI.toNat]? = some b.toNat := by rw [baseList_getElem?, hb]; rfl
  obtain ⟨hlt, hget⟩ := List.getElem?_eq_some_iff.mp hlist
  rw [List.drop_eq_getElem_cons hlt, hget]

theorem baseList_getD_of_baseAt (hb : baseAt c.ptI = some b) : baseList.getD c.ptI.toNat 0 = b.toNat := by
  rw [List.getD_eq_getElem?_getD, baseList_getElem?, hb]
  rfl

theorem basesFrom_of_early (hb : baseAt c.ptI = some b) (hn : c.ptN.toNat ≤ b.toNat) :
    (c.passCompletion .early c.ptI).writes (c.basesFrom c.ptI.toNat) := by
  rw [Engine.basesFrom, drop_baseList_of_baseAt hb, basesVerdict, if_pos hn]
  exact ⟨rfl, rfl, rfl, rfl, rfl, rfl⟩

/-- A base below `n` is tested: the rest of the verdict follows from its tests. -/
theorem basesFrom_of_below (hb : baseAt c.ptI = some b) (hn : b.toNat < c.ptN.toNat) :
    c.basesFrom c.ptI.toNat = c.afterBase (basePasses c.ptN.toNat c.ptD.toNat c.ptR.toNat b.toNat) := by
  rw [Engine.basesFrom, drop_baseList_of_baseAt hb, basesVerdict, if_neg (Nat.not_le.mpr hn), Engine.afterBase,
    baseList_getD_of_baseAt hb]
  rfl

theorem basesFrom_of_done (hi : c.ptI.toNat = 3) : (c.passCompletion .allPassed 3#2).writes (c.basesFrom c.ptI.toNat) := by
  rw [hi]
  exact ⟨rfl, rfl, rfl, rfl, rfl, rfl⟩

theorem afterBase_of_witness (hb : baseAt c.ptI = some b) : (c.witnessCompletion b).writes (c.afterBase false) :=
  ⟨rfl, rfl, ptI_add_one_toNat (ptI_le_two hb), (baseList_getD_of_baseAt hb).symm, rfl, rfl⟩

/-! Every step keeps the verdict -/

/-- A call of the exponentiator heads for the verdict of the power it returns (41_modpow.md R129). -/
theorem withLoop_verdict {base e m : Word} (he : 1 ≤ e.toNat) (ret : RetTo) :
    (c.withLoop base e m ret).verdict = c.verdictOfReturn ret (modpowSpec base.toNat e.toNat m.toNat) := by
  rw [← withLoop_power (c := c) (ret := ret) he]
  rfl

/-- A base that has passed leaves the later bases. -/
theorem nextBase_verdict (hi : c.ptI.toNat ≤ 2) : (nextBase c).verdict = some (c.afterBase true) := by
  rw [Engine.afterBase, if_pos rfl, ← ptI_add_one_toNat hi]
  rfl

/-- The exponentiator's return keeps the verdict of the value it returns. -/
theorem returnTo_reaches {ret : RetTo} {w : Verdict} (hw : c.verdictOfReturn ret c.mpRes.toNat = some w) :
    Reaches w (returnTo ret c) := by
  cases ret with
  | host => cases hw
  | ptPowret => exact hw
  | ptSqret => exact hw

end

section
variable {c : Engine} {n : EngineNext} {w : Verdict}

theorem mpLoop_reaches (hs : c.state = .mpLoop) (hi : c.Inv) (hw : c.verdict = some w) (h : coreStep c = .next n) :
    Reaches w n := by
  have hm := hi.one_le_mpM hs
  rw [Engine.verdict, hs] at hw
  obtain he | he := Nat.eq_zero_or_pos c.mpE.toNat
  · cases h.symm.trans (coreStep_mpLoop_of_zero hs hm he)
    exact returnTo_reaches (c := c.withLoopResult) ((withLoopResult_eq_power hm he).symm ▸ hw)
  · cases h.symm.trans (coreStep_mpLoop_of_pos hs hm he)
    have hs' : (mpIterate c).state = .mpLoop := hs
    show (mpIterate c).verdict = some w
    rw [Engine.verdict, hs', mpIterate_power hm]
    exact hw

/-- The fast paths write their verdicts, and the decomposition starts with all its halvings ahead (42_isprime.md R161). -/
theorem ptStart_reaches (hs : c.state = .ptStart) (hn : 2 ≤ c.ptN.toNat) (hw : c.verdict = some w)
    (h : coreStep c = .next n) : Reaches w n := by
  rw [Engine.verdict, hs] at hw
  cases hw
  by_cases hsmall : c.ptN.toNat = 2 ∨ c.ptN.toNat = 3
  · cases h.symm.trans (coreStep_ptStart_small hs hsmall)
    rw [isPrimeVerdict, if_pos hsmall]
    exact ⟨rfl, rfl, rfl, rfl, rfl, rfl⟩
  · have hbig : 4 ≤ c.ptN.toNat := by omega
    obtain heven | hodd := Nat.mod_two_eq_zero_or_one c.ptN.toNat
    · cases h.symm.trans (coreStep_ptStart_even hs hbig heven)
      rw [isPrimeVerdict, if_neg hsmall, if_pos heven]
      exact ⟨rfl, rfl, rfl, rfl, rfl, rfl⟩
    · cases h.symm.trans (coreStep_ptStart_odd hs hbig hodd)
      rw [isPrimeVerdict_of_odd hbig hodd, decomposition, ← sub_one_toNat (by omega)]
      exact rfl

/-- A halving is one of the spec's, and does not exhaust them (42_isprime.md R162). -/
theorem ptDecomp_reaches (hs : c.state = .ptDecomp) (hc : c.decomposing) (hw : c.verdict = some w)
    (h : coreStep c = .next n) : Reaches w n := by
  rw [Engine.verdict, hs] at hw
  cases hw
  obtain heven | hodd := Nat.mod_two_eq_zero_or_one c.ptD.toNat
  · cases h.symm.trans (coreStep_ptDecomp_even hs heven)
    have hr := ptR_add_one_toNat hc heven
    have hfuel : 32 - c.ptR.toNat = 32 - (c.ptR.toNat + 1) + 1 := by have := c.ptR.isLt; omega
    rw [hfuel, halveWhileEven_of_even heven, ← hr, ← shiftRight_one_toNat]
    simp only [Reaches, GoesOn, Engine.verdict, hs]
  · cases h.symm.trans (coreStep_ptDecomp_odd hs hodd)
    rw [halveWhileEven_of_odd hodd]
    exact rfl

theorem ptBase_reaches (hs : c.state = .ptBase) (hc : c.decomposed) (hw : c.verdict = some w)
    (h : coreStep c = .next n) : Reaches w n := by
  rw [Engine.verdict, hs] at hw
  cases hw
  cases hb : baseAt c.ptI with
  | none =>
    cases h.symm.trans (coreStep_ptBase_done hs hb)
    exact basesFrom_of_done ((baseAt_eq_none_iff _).mp hb)
  | some b =>
    obtain hle | hlt := le_or_gt c.ptN.toNat b.toNat
    · cases h.symm.trans (coreStep_ptBase_early hs hb hle)
      exact basesFrom_of_early hb hle
    · cases h.symm.trans (coreStep_ptBase_call hs hc.one_le_ptD hb hlt)
      rw [basesFrom_of_below hb hlt]
      exact withLoop_verdict hc.one_le_ptD .ptPowret

theorem ptPowret_reaches (hs : c.state = .ptPowret) (hc : c.testing) (hw : c.verdict = some w)
    (h : coreStep c = .next n) : Reaches w n := by
  have hn := hc.1.1.one_le_ptN
  rw [Engine.verdict, hs] at hw
  cases hw
  by_cases hm : c.mpRes.toNat = 1 ∨ c.mpRes.toNat = c.ptN.toNat - 1
  · cases h.symm.trans (coreStep_ptPowret_pass hs hn hm)
    rw [powerPasses, if_pos hm]
    exact nextBase_verdict (c := { c with ptM := c.mpRes }) hc.base.1
  · cases h.symm.trans (coreStep_ptPowret_square hs hn hm)
    rw [powerPasses, if_neg hm]
    exact rfl

/-- Without squarings left the base is a witness; otherwise the next square is called (42_isprime.md R165). -/
theorem ptSq_reaches (hs : c.state = .ptSq) (hc : c.testing) (hj : c.ptJ.toNat + 1 ≤ c.ptR.toNat)
    (hw : c.verdict = some w) (h : coreStep c = .next n) : Reaches w n := by
  rw [Engine.verdict, hs] at hw
  cases hw
  by_cases hlast : c.ptJ.toNat + 1 = c.ptR.toNat
  · obtain ⟨-, b, hb, -⟩ := hc.base
    cases h.symm.trans (coreStep_ptSq_verdict hs hb hlast)
    have hleft : c.ptR.toNat - 1 - c.ptJ.toNat = 0 := by omega
    rw [hleft]
    exact afterBase_of_witness hb
  · cases h.symm.trans (coreStep_ptSq_call hs hlast)
    have hleft : c.ptR.toNat - 1 - c.ptJ.toNat = c.ptR.toNat - 1 - (c.ptJ.toNat + 1) + 1 := by omega
    rw [hleft, squaringsPass_succ]
    exact withLoop_verdict (by decide) .ptSqret

theorem ptSqret_reaches (hs : c.state = .ptSqret) (hc : c.squaring) (hw : c.verdict = some w)
    (h : coreStep c = .next n) : Reaches w n := by
  have hn := hc.1.1.1.one_le_ptN
  rw [Engine.verdict, hs] at hw
  cases hw
  by_cases hm : c.mpRes.toNat = c.ptN.toNat - 1
  · cases h.symm.trans (coreStep_ptSqret_pass hs hn hm)
    rw [squarePasses, if_pos hm]
    exact nextBase_verdict (c := { c with ptM := c.mpRes, ptJ := c.ptJ + 1#5 }) hc.1.base.1
  · cases h.symm.trans (coreStep_ptSqret_square hs hn hm)
    rw [squarePasses, if_neg hm, ← ptJ_add_one_toNat hc]
    exact rfl

end

/-- Every step of an ISPRIME keeps the verdict it is heading for, and its completion writes that verdict
(42_isprime.md R168). -/
theorem isprime_leadsTo (w : Verdict) : LeadsTo (fun c => c.verdict = some w) (fun v => v.writes w) := by
  intro c n hi hw h
  have hinv := hi
  unfold Engine.Inv at hinv
  cases hs : c.state <;> simp only [hs] at hinv
  case idle => simp only [Engine.verdict, hs, reduceCtorEq] at hw
  case mpStart => simp only [Engine.verdict, hs, reduceCtorEq] at hw
  case mpLoop => exact mpLoop_reaches hs hi hw h
  case ptStart => exact ptStart_reaches hs hinv hw h
  case ptDecomp => exact ptDecomp_reaches hs hinv hw h
  case ptBase => exact ptBase_reaches hs hinv hw h
  case ptPowret => exact ptPowret_reaches hs hinv.1 hw h
  case ptSq => exact ptSq_reaches hs hinv.1 hinv.2.1 hw h
  case ptSqret => exact ptSqret_reaches hs hinv.1 hw h

theorem acceptIsprime_verdict (s : State) :
    (acceptIsprime s).engine.verdict = some (isPrimeVerdict s.regs.opa.toNat) := rfl

/-! The result under host traffic -/

theorem basesVerdict_res (n d r : Nat) (bs : List Nat) (k : Nat) : (basesVerdict n d r bs k).res = basesResult n d r bs := by
  induction bs generalizing k with
  | nil => rfl
  | cons b bs ih =>
    rw [basesVerdict, basesResult, apply_ite Verdict.res, apply_ite Verdict.res, ih]

theorem isPrimeVerdict_res (n : Nat) : (isPrimeVerdict n).res = isPrimeSpec n := by
  rw [isPrimeVerdict, isPrimeSpec, apply_ite Verdict.res, apply_ite Verdict.res, basesVerdict_res]

theorem completesUnderTraffic_mono {n : Nat} {s : State} {P Q : State → Prop} (hPQ : ∀ u, P u → Q u)
    (h : completesUnderTraffic n s P) : completesUnderTraffic n s Q := by
  obtain ⟨k, t, hk, hrun, hb, hd, hP, hbefore⟩ := h
  exact ⟨k, t, hk, hrun, hb, hd, hPQ t hP, hbefore⟩

/-- Settles O49: no access and no stall reaches the verdict the engine is heading for, and its result is that of R168. -/
theorem isprimeComputesSequentialProgram : Obligations.IsprimeComputesSequentialProgram := fun s hb hn htraffic =>
  ⟨acceptIsprime s, exec_isprime_accepted hb hn,
    completesUnderTraffic_mono (fun _ hshown => hshown.1.trans (isPrimeVerdict_res _))
      (completesUnderTraffic_of_leadsTo (isprime_leadsTo _) (acceptIsprime_inv hn) rfl (acceptIsprime_verdict s) htraffic
        (Nat.add_le_add_left (acceptIsprime_stepsLeft s).le _))⟩

/-! The whole verdict, and what the completion leaves -/

theorem engineStep_keeps_inv {s t : State} (hi : s.Inv) (h : engineStep s = .next t) : t.Inv := by
  by_cases hidle : s.engine.state = .idle
  · cases h.symm.trans (engineStep_idle hidle)
    exact hi
  · exact (engineStep_effect h).keeps_inv hi fun _ => hidle

theorem engineRun_keeps_inv {k : Nat} {s t : State} (hi : s.Inv) (h : engineRun k s = .next t) : t.Inv := by
  induction k generalizing s with
  | zero => cases h; exact hi
  | succ k ih =>
    obtain ⟨u, hu, hrun⟩ := andThen_eq_next.mp h
    exact ih (engineStep_keeps_inv hi hu) hrun

/-- Engine steps change no register, or exactly those of a completion (41_modpow.md R128, 42_isprime.md R167). -/
theorem engineRun_regs {k : Nat} {s t : State} (h : engineRun k s = .next t) :
    t.regs = s.regs ∨ t.regs = (complete t.regs.shown s).regs := by
  induction k generalizing s with
  | zero => cases h; exact .inl rfl
  | succ k ih =>
    obtain ⟨u, hu, hrun⟩ := andThen_eq_next.mp h
    obtain ⟨c, ⟨-, rfl⟩ | ⟨v, -, rfl⟩⟩ := engineStep_cases hu
    · exact ih (s := { s with engine := c }) hrun
    · obtain hsame | hcomplete := ih hrun
      · exact .inr (hsame ▸ rfl)
      · exact .inr hcomplete

/-- A running command's completion writes its values and flags and leaves every other register. -/
theorem completesWithin_complete {n : Nat} {s : State} {P : State → Prop} (hi : s.Inv) (hb : s.regs.busy = true)
    (h : completesWithin n s P) : completesWithin n s fun u => P u ∧ u.regs = (complete u.regs.shown s).regs := by
  obtain ⟨k, u, hk, hrun, hidle, hP⟩ := h
  refine ⟨k, u, hk, hrun, hidle, hP, (engineRun_regs hrun).resolve_left fun hsame => ?_⟩
  exact (engineRun_keeps_inv hi hrun).1.mp (hsame ▸ hb) hidle

/-- The engine alone completes an accepted ISPRIME with its whole verdict (42_isprime.md R161 to R167). -/
theorem acceptIsprime_completesWithin {s : State} (hn : 2 ≤ s.regs.opa.toNat) :
    completesWithin 496 (acceptIsprime s) fun u => u.regs.shows (isPrimeVerdict s.regs.opa.toNat) :=
  completesWithin_of_leadsTo (isprime_leadsTo _) (acceptIsprime_inv hn) rfl (acceptIsprime_verdict s)
    (acceptIsprime_stepsLeft s).le

/-- Settles O50: the verdict of `isprime_leadsTo`, and the frame of a completion. -/
theorem isprimeShowsWholeVerdict : Obligations.IsprimeShowsWholeVerdict := by
  intro s hb hn
  obtain ⟨k, u, hk, hrun, hidle, hshows, hregs⟩ :=
    completesWithin_complete (acceptIsprime_inv hn) rfl (acceptIsprime_completesWithin hn)
  refine ⟨_, exec_isprime_accepted hb hn, k, u, hk, hrun, hidle, hshows, ?_⟩
  rw [hregs]
  exact ⟨rfl, rfl, rfl, rfl, rfl⟩

end Sys2Proof.Machine

/-! ## What the verdict of an ISPRIME says about `n` (42_isprime.md R162, R169, R172, R173) -/

namespace Sys2Proof.Machine

/-! The decomposition -/

theorem halveWhileEven_mul_pow (fuel d r : Nat) :
    (halveWhileEven fuel d r).1 * 2 ^ (halveWhileEven fuel d r).2 = d * 2 ^ r := by
  induction fuel generalizing d r with
  | zero => rfl
  | succ fuel ih =>
    obtain heven | hodd := Nat.mod_two_eq_zero_or_one d
    · rw [halveWhileEven_of_even heven, ih, pow_succ', ← mul_assoc, Nat.div_mul_cancel (Nat.dvd_of_mod_eq_zero heven)]
    · rw [halveWhileEven_of_odd hodd]

/-- Enough halvings of a positive number end at an odd one. -/
theorem halveWhileEven_odd {fuel d : Nat} (hd : 1 ≤ d) (hlt : d < 2 ^ fuel) (r : Nat) :
    (halveWhileEven fuel d r).1 % 2 = 1 := by
  induction fuel generalizing d r with
  | zero => exact absurd hlt (Nat.not_lt.mpr hd)
  | succ fuel ih =>
    obtain heven | hodd := Nat.mod_two_eq_zero_or_one d
    · rw [halveWhileEven_of_even heven]
      rw [pow_succ] at hlt
      exact ih (by omega) (by omega) (r + 1)
    · rw [halveWhileEven_of_odd hodd]
      exact hodd

/-- `n - 1 = d · 2^r` with `d` odd and `r ≥ 1`, for odd `n` (42_isprime.md R162). -/
structure Decomposes (n d r : Nat) : Prop where
  eq : n - 1 = d * 2 ^ r
  odd : d % 2 = 1
  one_le : 1 ≤ r

theorem decomposition_decomposes {n : Nat} (hn : 3 ≤ n) (hlt : n < 2 ^ 32) (hodd : n % 2 = 1) :
    Decomposes n (decomposition n).1 (decomposition n).2 := by
  have heq : (decomposition n).1 * 2 ^ (decomposition n).2 = n - 1 := halveWhileEven_mul_pow 32 (n - 1) 0 |>.trans (mul_one _)
  have hdodd : (decomposition n).1 % 2 = 1 := halveWhileEven_odd (by omega) (by omega) 0
  refine ⟨heq.symm, hdodd, Nat.one_le_iff_ne_zero.mpr fun h0 => ?_⟩
  rw [h0] at heq
  omega

/-! A base passes exactly when it is no witness (42_isprime.md R169) -/

theorem squaringsPass_iff {n k m : Nat} : squaringsPass n k m = true ↔ ∃ j, j < k ∧ m ^ 2 ^ (j + 1) % n = n - 1 := by
  induction k generalizing m with
  | zero => simp [squaringsPass]
  | succ k ih =>
    have hpow (j : Nat) : (m ^ 2 % n) ^ 2 ^ j % n = m ^ 2 ^ (j + 1) % n := by
      rw [← Nat.pow_mod, ← pow_mul, ← pow_succ']
    have hsquare : modpowSpec m 2 n = m ^ 2 % n := rfl
    rw [squaringsPass_succ, squarePasses, hsquare, Nat.exists_lt_succ_left]
    split
    case isTrue hm => exact iff_of_true rfl (.inl hm)
    case isFalse hm =>
      rw [ih]
      simp only [hpow]
      exact (or_iff_right hm).symm

theorem basePasses_iff {n d r b : Nat} (h : Decomposes n d r) : basePasses n d r b = true ↔ ¬ isWitness n d r b := by
  have hpower : modpowSpec b d n = b ^ d % n := if_neg (by have := h.odd; omega)
  have hr : r - 1 + 1 = r := Nat.sub_add_cancel h.one_le
  have hsquares (j : Nat) : (b ^ d % n) ^ 2 ^ (j + 1) % n = b ^ (d * 2 ^ (j + 1)) % n := by
    rw [← Nat.pow_mod, ← pow_mul]
  have hsplit : (∃ k, k < r ∧ b ^ (d * 2 ^ k) % n = n - 1) ↔
      b ^ d % n = n - 1 ∨ ∃ j, j < r - 1 ∧ b ^ (d * 2 ^ (j + 1)) % n = n - 1 := by
    rw [← hr, Nat.exists_lt_succ_left, hr, pow_zero, mul_one]
  have hwitness : ¬ isWitness n d r b ↔ b ^ d % n = 1 ∨ ∃ k, k < r ∧ b ^ (d * 2 ^ k) % n = n - 1 := by
    simp only [isWitness, not_and_or, not_not, not_forall, exists_prop]
  rw [basePasses_eq, powerPasses, hpower, hwitness, hsplit, ← or_assoc]
  split
  case isTrue hm => exact iff_of_true rfl (.inl hm)
  case isFalse hm =>
    rw [squaringsPass_iff, or_iff_right hm]
    simp only [hsquares]

/-! What the base loop finds -/

theorem basesVerdict_d (n d r : Nat) (bs : List Nat) (k : Nat) : (basesVerdict n d r bs k).d = d := by
  induction bs generalizing k with
  | nil => rfl
  | cons b bs ih => rw [basesVerdict, apply_ite Verdict.d, apply_ite Verdict.d, ih, ite_self, ite_self]

theorem basesVerdict_r (n d r : Nat) (bs : List Nat) (k : Nat) : (basesVerdict n d r bs k).r = r := by
  induction bs generalizing k with
  | nil => rfl
  | cons b bs ih => rw [basesVerdict, apply_ite Verdict.r, apply_ite Verdict.r, ih, ite_self, ite_self]

/-- Early termination is at a base of the list that is not below `n` (42_isprime.md R163). -/
theorem exists_le_of_basesVerdict_early {n d r : Nat} {bs : List Nat} {k : Nat}
    (h : (basesVerdict n d r bs k).exit = .early) : ∃ b ∈ bs, n ≤ b := by
  induction bs generalizing k with
  | nil => cases h
  | cons b bs ih =>
    rw [basesVerdict] at h
    split at h
    case isTrue hle => exact ⟨b, List.mem_cons_self, hle⟩
    case isFalse =>
      split at h
      case isTrue =>
        obtain ⟨b', hb', hle⟩ := ih h
        exact ⟨b', List.mem_cons_of_mem b hb', hle⟩
      case isFalse => cases h

/-- A verdict of the base loop: every base below `n` passes, or the first one that does not is reported. -/
inductive LoopVerdict (n d r : Nat) (bs : List Nat) (v : Verdict) : Prop
  | prime (hres : v.res = 1) (hpass : ∀ b ∈ bs, b < n → basePasses n d r b = true)
  | composite (hres : v.res = 0) (hexit : v.exit = .witness) (hmem : v.wit ∈ bs) (hlt : v.wit < n)
      (hfail : basePasses n d r v.wit = false) (hfirst : ∀ b ∈ bs, b < v.wit → basePasses n d r b = true)

/-- Bases in increasing order: nothing below `n` follows an early termination, and the first base to fail is the least
(42_isprime.md R163, R165). -/
theorem basesVerdict_loopVerdict {bs : List Nat} (hsorted : bs.Pairwise (· < ·)) (n d r k : Nat) :
    LoopVerdict n d r bs (basesVerdict n d r bs k) := by
  induction bs generalizing k with
  | nil => exact .prime rfl nofun
  | cons b bs ih =>
    obtain ⟨hb, hbs⟩ := List.pairwise_cons.mp hsorted
    rw [basesVerdict]
    split
    case isTrue hle =>
      refine .prime rfl fun b' hb' hlt => ?_
      obtain rfl | hb' := List.mem_cons.mp hb'
      · omega
      · have := hb b' hb'
        omega
    case isFalse hlt =>
      split
      case isTrue hpass =>
        cases ih hbs (k + 1) with
        | prime hres hall => exact .prime hres (List.forall_mem_cons.mpr ⟨fun _ => hpass, hall⟩)
        | composite hres hexit hmem hwit hfail hfirst =>
          exact .composite hres hexit (List.mem_cons_of_mem b hmem) hwit hfail
            (List.forall_mem_cons.mpr ⟨fun _ => hpass, hfirst⟩)
      case isFalse hfail =>
        refine .composite rfl rfl List.mem_cons_self (Nat.not_le.mp hlt) (Bool.eq_false_of_not_eq_true hfail) fun b' hb' hlt' => ?_
        obtain rfl | hb' := List.mem_cons.mp hb'
        · exact absurd hlt' (Nat.lt_irrefl _)
        · exact absurd hlt' (Nat.lt_asymm (hb b' hb'))

/-- The verdict on an odd `n` from 5: that of the loop over 2, 7, 61 with the decomposition it shows. -/
theorem isPrimeVerdict_loopVerdict {n : Nat} (hn : 5 ≤ n) (hodd : n % 2 = 1) :
    LoopVerdict n (isPrimeVerdict n).d (isPrimeVerdict n).r baseList (isPrimeVerdict n) := by
  rw [isPrimeVerdict_of_odd (by omega) hodd, basesVerdict_d, basesVerdict_r]
  exact basesVerdict_loopVerdict (by decide) n _ _ 0

theorem isPrimeVerdict_decomposes {n : Nat} (hn : 5 ≤ n) (hlt : n < 2 ^ 32) (hodd : n % 2 = 1) :
    Decomposes n (isPrimeVerdict n).d (isPrimeVerdict n).r := by
  rw [isPrimeVerdict_of_odd (by omega) hodd, basesVerdict_d, basesVerdict_r]
  exact decomposition_decomposes (by omega) hlt hodd

theorem completesWithin_mono {n : Nat} {s : State} {P Q : State → Prop} (hPQ : ∀ u, P u → Q u)
    (h : completesWithin n s P) : completesWithin n s Q := by
  obtain ⟨k, t, hk, hrun, hidle, hP⟩ := h
  exact ⟨k, t, hk, hrun, hidle, hPQ t hP⟩

/-- What holds of registers that show the verdict on `n` holds at the completion of an accepted ISPRIME. -/
theorem isprime_completesWithin {s t : State} {P : State → Prop} (hb : s.regs.busy = false) (hn : 2 ≤ s.regs.opa.toNat)
    (h : exec .isprime s = .next t) (hP : ∀ u : State, u.regs.shows (isPrimeVerdict s.regs.opa.toNat) → P u) :
    completesWithin 496 t P := by
  cases h.symm.trans (exec_isprime_accepted hb hn)
  exact completesWithin_mono hP (acceptIsprime_completesWithin hn)

/-- Settles O51: the base loop, with "passes" read as "is no witness". -/
theorem compositeExactlyWhenSomeBaseWitnesses : Obligations.CompositeExactlyWhenSomeBaseWitnesses := by
  intro s t hb hn hodd h
  refine isprime_completesWithin hb (by omega) h fun u hu => ?_
  obtain ⟨hres, hexit, -, hwit, hd, hr⟩ := hu
  have hdec := isPrimeVerdict_decomposes hn s.regs.opa.isLt hodd
  rw [hres, hexit, hwit, hd, hr]
  refine ⟨hdec.eq, hdec.odd, ?_⟩
  cases isPrimeVerdict_loopVerdict hn hodd with
  | prime hone hpass =>
    rw [hone]
    refine ⟨.inr rfl, ⟨nofun, ?_⟩, nofun⟩
    rintro ⟨b, hb, hlt, hwitness⟩
    exact absurd hwitness ((basePasses_iff hdec).mp (hpass b hb hlt))
  | composite hzero hexit hmem hlt hfail hfirst =>
    have hwitness := not_not.mp (mt (basePasses_iff hdec).mpr (ne_true_of_eq_false hfail))
    exact ⟨.inl hzero, ⟨fun _ => ⟨_, hmem, hlt, hwitness⟩, fun _ => hzero⟩, fun _ =>
      ⟨hexit, hmem, hwitness, fun b hb hlt => (basePasses_iff hdec).mp (hfirst b hb hlt)⟩⟩

/-! Primes -/

/-- In a domain, a square root of 1 is 1 or -1: repeated squaring can reach 1 only from 1 or through -1. -/
theorem eq_one_or_exists_pow_eq_neg_one {R : Type} [CommRing R] [IsDomain R] {x : R} {r : Nat} (h : x ^ 2 ^ r = 1) :
    x = 1 ∨ ∃ k, k < r ∧ x ^ 2 ^ k = -1 := by
  induction r with
  | zero => exact .inl (by simpa using h)
  | succ r ih =>
    rw [pow_succ, pow_mul, sq_eq_one_iff] at h
    obtain hone | hneg := h
    · obtain hx | ⟨k, hk, hx⟩ := ih hone
      · exact .inl hx
      · exact .inr ⟨k, Nat.lt_succ_of_lt hk, hx⟩
    · exact .inr ⟨r, Nat.lt_succ_self r, hneg⟩

/-- No base that a prime does not divide is a witness against it (42_isprime.md R169, R172). -/
theorem not_isWitness_of_prime {n d r b : Nat} (hp : n.Prime) (hdec : n - 1 = d * 2 ^ r) (hb : ¬ n ∣ b) :
    ¬ isWitness n d r b := by
  rintro ⟨hone, hneg⟩
  have : Fact n.Prime := ⟨hp⟩
  have hfermat : ((b : ZMod n) ^ d) ^ 2 ^ r = 1 := by
    rw [← pow_mul, ← hdec]
    exact ZMod.pow_card_sub_one_eq_one (mt (ZMod.natCast_eq_zero_iff b n).mp hb)
  obtain h1 | ⟨k, hk, hx⟩ := eq_one_or_exists_pow_eq_neg_one hfermat
  · have h1' : ((b ^ d : Nat) : ZMod n) = (1 : Nat) := by rw [Nat.cast_pow, h1, Nat.cast_one]
    exact hone (((ZMod.natCast_eq_natCast_iff' _ _ _).mp h1').trans (Nat.mod_eq_of_lt hp.one_lt))
  · have hx' : ((b ^ (d * 2 ^ k) : Nat) : ZMod n) = (n - 1 : Nat) := by
      rw [Nat.cast_pow, pow_mul, hx, Nat.cast_pred hp.pos, ZMod.natCast_self, zero_sub]
    exact hneg k hk (((ZMod.natCast_eq_natCast_iff' _ _ _).mp hx').trans (Nat.mod_eq_of_lt (Nat.sub_one_lt hp.ne_zero)))

theorem baseList_pos {b : Nat} (h : b ∈ baseList) : 0 < b := by
  have hall : ∀ b ∈ baseList, 0 < b := by decide
  exact hall b h

theorem isPrimeVerdict_res_of_prime {n : Nat} (hp : n.Prime) (hlt : n < 2 ^ 32) : (isPrimeVerdict n).res = 1 := by
  obtain hsmall | hn : n ≤ 3 ∨ 4 ≤ n := by omega
  · have := hp.two_le
    rw [isPrimeVerdict, if_pos (by omega)]
  · have hodd : n % 2 = 1 := Nat.odd_iff.mp (hp.odd_of_ne_two (by omega))
    have hdec := isPrimeVerdict_decomposes (by omega) hlt hodd
    cases isPrimeVerdict_loopVerdict (by omega) hodd with
    | prime hres => exact hres
    | composite _ _ hmem hwit hfail =>
      have hdvd := Nat.not_dvd_of_pos_of_lt (baseList_pos hmem) hwit
      have hpass := (basePasses_iff hdec).mpr (not_isWitness_of_prime hp hdec.eq hdvd)
      cases hfail.symm.trans hpass

/-- Settles O52: a base below a prime is no witness against it. -/
theorem primesAreNeverCalledComposite : Obligations.PrimesAreNeverCalledComposite := fun s _ hb hp h =>
  isprime_completesWithin hb hp.two_le h fun _ hu => hu.1.trans (isPrimeVerdict_res_of_prime hp s.regs.opa.isLt)

/-- Early termination is at a base of the list, so only for `n` up to 61 (42_isprime.md R163). -/
theorem le_of_isPrimeVerdict_early {n : Nat} (h : (isPrimeVerdict n).exit = .early) : n ≤ 61 := by
  have hbases : ∀ b ∈ baseList, b ≤ 61 := by decide
  rw [isPrimeVerdict] at h
  split at h
  case isTrue => cases h
  case isFalse =>
    split at h
    case isTrue => cases h
    case isFalse =>
      obtain ⟨b, hb, hle⟩ := exists_le_of_basesVerdict_early h
      exact hle.trans (hbases b hb)

/-- The verdicts on the numbers up to 61, evaluated (42_isprime.md R173). -/
theorem prime_of_early_of_le : ∀ n ≤ 61, 2 ≤ n → (isPrimeVerdict n).exit = .early → n.Prime ∧ 5 ≤ n := by decide

/-- Settles O53: the bound by the last base, and the verdicts up to it. -/
theorem earlyTerminationOnlyAtPrimes : Obligations.EarlyTerminationOnlyAtPrimes := fun _ _ hb hn h =>
  isprime_completesWithin hb hn h fun _ hu hearly => by
    obtain ⟨-, hexit, -⟩ := hu
    have hverdict := hexit.symm.trans hearly
    have hle := le_of_isPrimeVerdict_early hverdict
    obtain ⟨hp, h5⟩ := prime_of_early_of_le _ hle hn hverdict
    exact ⟨hp, h5, hle⟩

end Sys2Proof.Machine

/-! ## Commands that run, and the interrupt (60_exceptions.md R194, R195, R200; 70_reset_and_hazards.md R244) -/

namespace Sys2Proof.Machine

/-! Every running command completes -/

/-- Every engine step goes on or completes: that a command ends rests on the bound on its steps alone. -/
theorem leadsTo_true : LeadsTo (fun _ => True) (fun _ => True) := by
  rintro c ⟨d, v⟩ - - -
  cases v <;> trivial

/-- Settles O44: `Engine.stepsLeft` falls with every engine step, and the command's completion writes none of the error flags. -/
theorem everyRunningCommandCompletes : Obligations.EveryRunningCommandCompletes := by
  intro s hi hb
  obtain ⟨k, t, -, hrun, hidle, -, hregs⟩ :=
    completesWithin_complete hi hb (completesWithin_of_leadsTo leadsTo_true hi hb trivial le_rfl)
  refine ⟨k, t, hrun, hidle, ?_⟩
  rw [hregs]
  exact ⟨rfl, rfl, rfl, rfl, rfl⟩

/-! The causes of the interrupt -/

theorem State.irq_eq_true_iff (s : State) : s.irq = true ↔ s.regs.ctrlIE = true ∧ s.regs.done = true := Bool.and_eq_true_iff

/-- The access in which `DONE` rises is a rejection (60_exceptions.md R197). -/
theorem AccessEffect.eq_reject_of_done_rises {x : Option Xact} {s u : State} (h : AccessEffect x s u)
    (h0 : s.regs.done = false) (h1 : u.regs.done = true) : ∃ e, e ≠ .none ∧ u = Machine.reject e s := by
  cases h with
  | reject _ e _ _ he => exact ⟨e, he, rfl⟩
  | status => simp [h0] at h1
  | acceptModpow | acceptIsprime => exact absurd h1 Bool.false_ne_true
  | ignored | ctrl | opa | opb | opm | overrun => exact absurd (h0.symm.trans h1) Bool.false_ne_true

section
variable {s t : State}

/-- `DONE` rises on an idle block only with an error code. -/
theorem errcode_of_done_rises (hi : s.Inv) (h : step s = .next t) (hb : s.regs.busy = false) (h0 : s.regs.done = false)
    (h1 : t.regs.done = true) : t.regs.errcode ≠ .none := by
  cases step_effect h with
  | reset => exact absurd h1 Bool.false_ne_true
  | clocked p u _ _ _ ha he =>
    obtain rfl := he.eq_of_no_turn (hi.no_turn_of_not_busy hb)
    obtain ⟨e, hcode, rfl⟩ := ha.eq_reject_of_done_rises h0 h1
    exact hcode

/-- `IE` changes without reset only by a write of `CTRL`, and takes the word's bit 0 (10_state.md R25). -/
theorem ctrl_written_of_ctrlIE_ne (h : step s = .next t) (hr : resetPresented s = false)
    (hne : t.regs.ctrlIE ≠ s.regs.ctrlIE) :
    ∃ v, writePresented RegName.ctrl.index s = some v ∧ decide (v.toNat % 2 = 1) = t.regs.ctrlIE := by
  obtain ⟨-, -, -, hie⟩ := hostRegistersChangeOnlyByTheirWrites s t h hr
  cases hw : writePresented RegName.ctrl.index s with
  | none => exact absurd (by rw [hie, hw]; rfl) hne
  | some v => exact ⟨v, rfl, by rw [hie, hw]; rfl⟩

/-- `irq` rises by a write of `IE`, by a rejection or by the completion (60_exceptions.md R200). -/
theorem irq_rises (hi : s.Inv) (h : step s = .next t) (hr : resetPresented s = false) (h0 : s.irq = false)
    (h1 : t.irq = true) :
    (s.regs.done = true ∧ ∃ v, writePresented RegName.ctrl.index s = some v ∧ v.toNat % 2 = 1) ∨
      (t.regs.ctrlIE = true ∧ s.regs.busy = false ∧ t.regs.err = true ∧ t.regs.errcode ≠ .none ∧
        ∃ v, cmdPresented s = some v) ∨
      (t.regs.ctrlIE = true ∧ s.regs.busy = true ∧ t.regs.busy = false) := by
  obtain ⟨hie, hdone⟩ := t.irq_eq_true_iff.mp h1
  cases hsd : s.regs.done with
  | true =>
    rw [State.irq, hsd, Bool.and_true] at h0
    obtain ⟨v, hw, hv⟩ := ctrl_written_of_ctrlIE_ne h hr (by simp [hie, h0])
    exact .inl ⟨rfl, v, hw, of_decide_eq_true (hv.trans hie)⟩
  | false =>
    obtain ⟨hrises, -⟩ := doneAndErrorChangeOnlyForTheirCauses s t hi h
    obtain ⟨hb, hb'⟩ | ⟨hb, herr, hcmd⟩ := hrises hsd hdone
    · exact .inr (.inr ⟨hie, hb, hb'⟩)
    · exact .inr (.inl ⟨hie, hb, herr, errcode_of_done_rises hi h hb hsd hdone, hcmd⟩)

/-- `irq` falls by a write of `IE`, by the W1C bit of `DONE` or by an acceptance (60_exceptions.md R200). -/
theorem irq_falls (hi : s.Inv) (h : step s = .next t) (hr : resetPresented s = false) (h1 : s.irq = true)
    (h0 : t.irq = false) :
    (t.regs.done = true ∧ ∃ v, writePresented RegName.ctrl.index s = some v ∧ v.toNat % 2 = 0) ∨
      (∃ v, writePresented RegName.status.index s = some v ∧ v.toNat / 2 % 2 = 1) ∨
      (t.regs.busy = true ∧ ∃ v, cmdPresented s = some v) := by
  obtain ⟨hie, hdone⟩ := s.irq_eq_true_iff.mp h1
  cases htd : t.regs.done with
  | true =>
    rw [State.irq, htd, Bool.and_true] at h0
    obtain ⟨v, hw, hv⟩ := ctrl_written_of_ctrlIE_ne h hr (by simp [hie, h0])
    exact .inl ⟨rfl, v, hw, Nat.mod_two_ne_one.mp (of_decide_eq_false (hv.trans h0))⟩
  | false =>
    obtain ⟨-, hfalls, -⟩ := doneAndErrorChangeOnlyForTheirCauses s t hi h
    obtain hreset | haccept | hack := hfalls hdone htd
    · exact absurd (hr.symm.trans hreset) Bool.false_ne_true
    · exact .inr (.inr haccept)
    · exact .inr (.inl hack)

end

/-- Settles O24: `irq` moves with `IE`, which only its write changes, or with `DONE`, whose causes O35 gives. -/
theorem irqChangesOnlyForItsCauses : Obligations.IrqChangesOnlyForItsCauses := fun _ t hi h hr =>
  ⟨t.irq_eq_true_iff, irq_rises hi h hr, irq_falls hi h hr⟩

/-! A command write while a command runs -/

theorem exec_overrun {s : State} (hb : s.regs.busy = true) (i : Instr) : exec i s = .next (overrun s) :=
  (commandWrite_encode i s).symm.trans (commandWrite_overrun hb (encode i))

/-- Settles O9: every word, and so each command's own, overruns. -/
theorem commandWhileBusyOnlySetsOvr : Obligations.CommandWhileBusyOnlySetsOvr := fun s hb =>
  ⟨fun v => ⟨overrun s, commandWrite_overrun hb v, rfl, rfl, rfl, rfl⟩,
    fun i => ⟨overrun s, exec_overrun hb i, rfl, rfl, rfl⟩⟩

end Sys2Proof.Machine

/-! ## Reset (70_reset_and_hazards.md R230 to R233) -/

namespace Sys2Proof.Machine

/-! A cycle with reset -/

/-- The inputs of a cycle with `rst = 1`. -/
def PortIn.resetting (x : Option Xact) : PortIn := { rst := true, access := x }

section
variable {s : State} {x : Option Xact} {rest : List HostOp}

theorem portIn_of_rst (h : s.env.host = .rst x :: rest) : portIn s = .next (.resetting x) := by
  rw [portIn, h]
  rfl

theorem hostAfter_of_rst (h : s.env.host = .rst x :: rest) : hostAfter s = rest := by
  rw [hostAfter, h]

/-- A cycle with reset is the reset edge alone, whatever access it presents (70_reset_and_hazards.md R230, R232; log 7). -/
theorem step_of_rst (h : s.env.host = .rst x :: rest) : step s = .next (resetEdge (advance (.resetting x) s)) := by
  rw [step, cycle, portIn_of_rst h]
  rfl

end

theorem busRead_resetEdge (a : BitVec 4) (s : State) : busRead a (resetEdge s) = busRead a State.reset := busRead_congr a rfl

/-- While `rst = 1` a read returns 0 (70_reset_and_hazards.md R232). -/
theorem portRead_resetting_some (y : Xact) (s : State) :
    portRead (.resetting (some y)) s = if y.we then none else some 0#32 := rfl

/-- Settles O22: the cycle is the reset edge alone, and the reset state's reads are those of O21. -/
theorem resetEdgeTakesResetValues : Obligations.ResetEdgeTakesResetValues := by
  intro s x rest h
  obtain ⟨hidle, hirq, hid, hzero, -⟩ := resetValues
  refine ⟨_, step_of_rst h, hidle, hirq, hostAfter_of_rst h, (busRead_resetEdge _ _).trans hid,
    fun a ha => (busRead_resetEdge a _).trans (hzero a ha), ?_⟩
  cases x with
  | none => rfl
  | some y => exact portRead_resetting_some y s

/-! The first command after reset -/

/-- The write of ISPRIME's word to `CMD` on an idle block with `OPA ≥ 2` (40_command_dispatch.md R111). -/
theorem busWrite_isprime_accepted {s : State} (hb : s.regs.busy = false) (hn : 2 ≤ s.regs.opa.toNat) :
    busWrite RegName.cmd.index 2#32 s = .next (acceptIsprime s) :=
  (commandWrite_encode .isprime s).trans (exec_isprime_accepted hb hn)

/-- Settles O23: the reset edge leaves the engine idle and `BUSY = 0`, so that each of the next two cycles is its bus write. -/
theorem firstCommandAfterReset : Obligations.FirstCommandAfterReset := by
  intro s x n rest hn h
  obtain ⟨s₁, hregs₁, heng₁, hhost₁, hstep₁⟩ :=
    step_of_wrOp (s := resetEdge (advance (.resetting x) s)) rfl (hostAfter_of_rst h)
  have hidle : (writeOpa n s₁).engine.state = .idle := congrArg Engine.state heng₁
  obtain ⟨s₂, hregs₂, -, hhost₂, hstep₂⟩ := step_of_wrOp (v := 2#32) hidle hhost₁
  have hregs : s₂.regs = { Regs.reset with opa := n } := by
    rw [hregs₂, writeOpa_regs, hregs₁, resetEdge_regs]
  rw [busWrite_isprime_accepted (by rw [hregs]; rfl) (by rw [hregs]; exact hn)] at hstep₂
  refine ⟨acceptIsprime s₂, ?_, rfl, rfl, congrArg Regs.opa hregs, hhost₂⟩
  calc cycles 3 s
    _ = cycles 2 (resetEdge (advance (.resetting x) s)) := cycles_succ_of_step (step_of_rst h)
    _ = cycles 1 (writeOpa n s₁) := cycles_succ_of_step hstep₁
    _ = .next (acceptIsprime s₂) := cycles_succ_of_step hstep₂

end Sys2Proof.Machine
